-- ==== Sys2Proof/Word.lean ====
section
/-! DEFINITION. The data units of the block (R9, R10): every value is unsigned, and a byte list is sent or received
in list order, first byte first (R46). -/

namespace Sys2Proof

/-- A byte (R10). -/
abbrev Byte := BitVec 8

/-- A host word, and a command word (R19, R57). -/
abbrev Word := BitVec 32

/-- A 7-bit I2C bus address (R38). -/
abbrev Addr7 := BitVec 7

/-- A page index 0..15 of an NVM or EEPROM space (R37). -/
abbrev Page := BitVec 4

/-- A control code 0..15 (R7, CC_BITS). -/
abbrev ControlCode := BitVec 4

end Sys2Proof
end

