-- ==== Sys2Proof/Syntax.lean ====
section
/-! DEFINITION. The commands (R57 to R61): one constructor per row of the opcode map. -/

namespace Sys2Proof

/-- MemorySpace (R37): the three spaces of a GreenPAK device. -/
inductive Space
  | register
  | nvm
  | eeprom
deriving DecidableEq, Repr

/-- A command. Operands are the fields of the word, zero-extended where they are used (R60): ARG is 8 bits, COUNT 9. -/
inductive Instr
  /-- 0x1 READ_BYTES space, start, count (R72). -/
  | readBytes (space : Space) (start : Byte) (count : BitVec 9)
  /-- 0x2 WRITE_BYTES space, start, count (R73). -/
  | writeBytes (space : Space) (start : Byte) (count : BitVec 9)
  /-- 0x3 READ_PAGE space, page (R74). -/
  | readPage (space : Space) (page : Byte)
  /-- 0x4 IS_PAGE_WRITABLE space, page (R85). -/
  | isPageWritable (space : Space) (page : Byte)
  /-- 0x5 IS_PAGE_ERASED space, page (R86). -/
  | isPageErased (space : Space) (page : Byte)
  /-- 0x6 ERASE_PAGE space, page (R87). -/
  | erasePage (space : Space) (page : Byte)
  /-- 0x7 PROGRAM_PAGE space, page (R88). -/
  | programPage (space : Space) (page : Byte)
  /-- 0x8 PROGRAM_PAGES space, start page, byte count (R89). -/
  | programPages (space : Space) (startPage : Byte) (count : BitVec 9)
  /-- 0x9 RESET_DEVICE (R90). -/
  | resetDevice
  /-- 0xA SCAN_DEVICE cc (R91). -/
  | scanDevice (cc : Byte)
  /-- 0xB SCAN_DEVICES (R92). -/
  | scanDevices
  /-- 0xC PROGRAM_CONTROL_CODE length (R94). -/
  | programControlCode (count : BitVec 9)
  /-- 0xD SET_CONTROL_CODE cc (R95). -/
  | setControlCode (cc : Byte)
  /-- 0xE SET_DEVICE length (R96). -/
  | setDevice (count : BitVec 9)
  /-- 0xF TRANSLATE space, cc (R69). -/
  | translate (space : Space) (cc : Byte)
  /-- The reserved row: OP 0x0 and every word that matches no row (R63). It carries the word it stands for. -/
  | illegal (word : Word)
deriving DecidableEq, Repr

end Sys2Proof
end

