-- ==== Sys2Proof/WellFormed.lean ====
section
/-! DEFINITION. Which commands are well formed. Operands have the exact width of their fields and a space is one of
three names, so every command but the reserved row is well formed; the reserved row stands only for a word that R63
calls illegal. The check is written field by field from R58, R61's column "uses" and R63; the decoder is written from
R61's masks. -/

namespace Sys2Proof

/-- OP, bits 3..0 (R58). -/
def wordOp (w : Word) : BitVec 4 := w.extractLsb' 0 4

/-- SPACE, bits 5..4 (R58). -/
def wordSpace (w : Word) : BitVec 2 := w.extractLsb' 4 2

/-- SBZ0, bits 7..6 (R58). -/
def wordSbz0 (w : Word) : BitVec 2 := w.extractLsb' 6 2

/-- ARG, bits 15..8 (R58). -/
def wordArg (w : Word) : Byte := w.extractLsb' 8 8

/-- COUNT, bits 24..16 (R58). -/
def wordCount (w : Word) : BitVec 9 := w.extractLsb' 16 9

/-- SBZ1, bits 31..25 (R58). -/
def wordSbz1 (w : Word) : BitVec 7 := w.extractLsb' 25 7

/-- The opcodes whose row reads SPACE (R61). -/
def opUsesSpace (op : BitVec 4) : Bool := decide (1 ≤ op.toNat ∧ op.toNat ≤ 8) || op == 15#4

/-- The opcodes whose row reads ARG (R61). -/
def opUsesArg (op : BitVec 4) : Bool :=
  decide (1 ≤ op.toNat ∧ op.toNat ≤ 8) || op == 10#4 || op == 13#4 || op == 15#4

/-- The opcodes whose row reads COUNT (R61). -/
def opUsesCount (op : BitVec 4) : Bool := op == 1#4 || op == 2#4 || op == 8#4 || op == 12#4 || op == 14#4

/-- R63: OP 0x0; SBZ0 or SBZ1 non-zero; a should-be-zero field of the row non-zero; SPACE 0b11 where SPACE is used. -/
def illegalWord (w : Word) : Bool :=
  wordOp w == 0#4 || wordSbz0 w != 0#2 || wordSbz1 w != 0#7 ||
    (if opUsesSpace (wordOp w) then wordSpace w == 3#2 else wordSpace w != 0#2) ||
    (!opUsesArg (wordOp w) && wordArg w != 0#8) || (!opUsesCount (wordOp w) && wordCount w != 0#9)

/-- A well-formed command. -/
def WellFormed : Instr → Bool
  | .illegal w => illegalWord w
  | .readBytes _ _ _ | .writeBytes _ _ _ | .readPage _ _ | .isPageWritable _ _ | .isPageErased _ _ | .erasePage _ _
  | .programPage _ _ | .programPages _ _ _ | .resetDevice | .scanDevice _ | .scanDevices | .programControlCode _
  | .setControlCode _ | .setDevice _ | .translate _ _ => true

end Sys2Proof
end

