-- ==== Sys2Proof/Decode.lean ====
section
/-! DEFINITION. The decoder, written from R61's masks and R62's procedure, the encoder, written from R58's formula, and
the byte order of a host word (R19). -/

namespace Sys2Proof

/-- The four bytes of a host word, the one at the lowest offset first (R19). -/
def wordBytes (w : Word) : List Byte :=
  [w.extractLsb' 0 8, w.extractLsb' 8 8, w.extractLsb' 16 8, w.extractLsb' 24 8]

/-- The host word of four bytes, `b0` at the lowest offset (R19). -/
def bytesWord (b0 b1 b2 b3 : Byte) : Word := b3 ++ b2 ++ b1 ++ b0

/-- The SPACE encoding (R59). -/
def spaceCode : Space → BitVec 2
  | .register => 0b00
  | .nvm => 0b01
  | .eeprom => 0b10

/-- The space a SPACE field names; 0b11 is reserved (R59). -/
def spaceOf (c : BitVec 2) : Option Space :=
  if c = 0b00 then some .register
  else if c = 0b01 then some .nvm
  else if c = 0b10 then some .eeprom
  else none

/-- One row of the opcode map (R61). -/
structure OpcodeRow where
  mask : Word
  pattern : Word
  usesSpace : Bool
  build : Space → Byte → BitVec 9 → Instr

/-- The opcode map (R61), row for row, without the reserved OP 0x0. -/
def opcodeRows : List OpcodeRow :=
  [⟨0xFE0000CF, 0x00000001, true, fun sp a n => .readBytes sp a n⟩,
   ⟨0xFE0000CF, 0x00000002, true, fun sp a n => .writeBytes sp a n⟩,
   ⟨0xFFFF00CF, 0x00000003, true, fun sp a _ => .readPage sp a⟩,
   ⟨0xFFFF00CF, 0x00000004, true, fun sp a _ => .isPageWritable sp a⟩,
   ⟨0xFFFF00CF, 0x00000005, true, fun sp a _ => .isPageErased sp a⟩,
   ⟨0xFFFF00CF, 0x00000006, true, fun sp a _ => .erasePage sp a⟩,
   ⟨0xFFFF00CF, 0x00000007, true, fun sp a _ => .programPage sp a⟩,
   ⟨0xFE0000CF, 0x00000008, true, fun sp a n => .programPages sp a n⟩,
   ⟨0xFFFFFFFF, 0x00000009, false, fun _ _ _ => .resetDevice⟩,
   ⟨0xFFFF00FF, 0x0000000A, false, fun _ a _ => .scanDevice a⟩,
   ⟨0xFFFFFFFF, 0x0000000B, false, fun _ _ _ => .scanDevices⟩,
   ⟨0xFE00FFFF, 0x0000000C, false, fun _ _ n => .programControlCode n⟩,
   ⟨0xFFFF00FF, 0x0000000D, false, fun _ a _ => .setControlCode a⟩,
   ⟨0xFE00FFFF, 0x0000000E, false, fun _ _ n => .setDevice n⟩,
   ⟨0xFFFF00CF, 0x0000000F, true, fun sp a _ => .translate sp a⟩]

/-- Whether a word matches a row (R62). -/
def OpcodeRow.hits (r : OpcodeRow) (w : Word) : Bool := w &&& r.mask == r.pattern

/-- The command a matching row reads from a word (R60, R62); SPACE 0b11 in a row that uses SPACE is illegal. -/
def OpcodeRow.read (r : OpcodeRow) (w : Word) : Instr :=
  if r.usesSpace then
    match spaceOf (w.extractLsb' 4 2) with
    | some sp => r.build sp (w.extractLsb' 8 8) (w.extractLsb' 16 9)
    | none => .illegal w
  else r.build .register (w.extractLsb' 8 8) (w.extractLsb' 16 9)

/-- R62's loop over the rows. -/
def decodeRows : List OpcodeRow → Word → Instr
  | [], w => .illegal w
  | r :: rows, w => if r.hits w then r.read w else decodeRows rows w

/-- Decode (R62): total, every word is one row's command or the reserved row's. -/
def decodeWord (w : Word) : Instr := decodeRows opcodeRows w

/-- Why a byte list is no command: a command is exactly one 32-bit word (R57). -/
inductive DecodeError
  | notOneWord (length : Nat)
deriving DecidableEq, Repr

/-- The command in the bytes of CMDREG, lowest offset first (R19, R57). -/
def decode : List Byte → Except DecodeError Instr
  | [b0, b1, b2, b3] => .ok (decodeWord (bytesWord b0 b1 b2 b3))
  | bs => .error (.notOneWord bs.length)

/-- R58's formula: `OP | (SPACE << 4) | (ARG << 8) | (COUNT << 16)`. -/
def packWord (op : BitVec 4) (space : BitVec 2) (arg : Byte) (count : BitVec 9) : Word :=
  op.setWidth 32 ||| (space.setWidth 32 <<< 4) ||| (arg.setWidth 32 <<< 8) ||| (count.setWidth 32 <<< 16)

/-- The word of a command (R58, R61). -/
def encode : Instr → Word
  | .readBytes sp a n => packWord 0x1 (spaceCode sp) a n
  | .writeBytes sp a n => packWord 0x2 (spaceCode sp) a n
  | .readPage sp p => packWord 0x3 (spaceCode sp) p 0
  | .isPageWritable sp p => packWord 0x4 (spaceCode sp) p 0
  | .isPageErased sp p => packWord 0x5 (spaceCode sp) p 0
  | .erasePage sp p => packWord 0x6 (spaceCode sp) p 0
  | .programPage sp p => packWord 0x7 (spaceCode sp) p 0
  | .programPages sp p n => packWord 0x8 (spaceCode sp) p n
  | .resetDevice => packWord 0x9 0 0 0
  | .scanDevice c => packWord 0xA 0 c 0
  | .scanDevices => packWord 0xB 0 0 0
  | .programControlCode n => packWord 0xC 0 0 n
  | .setControlCode c => packWord 0xD 0 c 0
  | .setDevice n => packWord 0xE 0 0 n
  | .translate sp c => packWord 0xF (spaceCode sp) c 0
  | .illegal w => w

/-- The command word of a numbered bit string: bits at and above `nbits` are 0. -/
def tableWord (nbits w : Nat) : Word := BitVec.ofNat 32 (w % 2 ^ nbits)

/-- What the decoder reads from the bits `w` of an opcode-table row of `nbits` bits, laid out in the byte order of a
host word; no command is longer than 32 bits (R57). -/
def decodeTableWord (nbits w : Nat) : Option Instr :=
  if nbits ≤ 32 then
    match decode (wordBytes (tableWord nbits w)) with
    | .ok i => some i
    | .error _ => none
  else none

end Sys2Proof
end

