-- ==== Sys2Proof/Config.lean ====
section
/-! DEFINITION. What an implementation fixes (the named parameters of R8 and the descriptor table of R29 to R31), and
the FREE VALUES the spec leaves open, as opaque constants: no proof can see what they are. -/

namespace Sys2Proof

/-- What a transport read answers (R41, R43): failure, or a byte list whose length may differ from the one asked for. -/
inductive ReadReply
  | fail
  | bytes (xs : List Byte)
deriving DecidableEq, Repr, Inhabited

/-- RO_POLICY (R8, R81): what a multi-page program does with a page that is not writable. -/
inductive RoPolicy
  | skip
  | fail
deriving DecidableEq, Repr

/-- ERRATA_DUMMY_PAYLOAD (R8, R78): `[]` or `[0x00]`, the two readings of 90_conflicts.md C9. -/
inductive DummyPayload
  | zeroLength
  | zeroByte
deriving DecidableEq, Repr

/-- DeviceDescriptor (R29): the immutable record of one device model. -/
structure DeviceDescriptor where
  /-- The model identifier, as the bytes the host compares (R96). -/
  name : List Byte
  /-- NVM pages the user may not erase or program. -/
  readOnlyNvmPages : List Page
  /-- Register-space address that triggers an erase. -/
  eraseTriggerAddress : Byte
  /-- Fixed bits 7..5 of the erase trigger byte. -/
  eraseTriggerMask : Byte
  /-- NVM address of the stored control code. -/
  controlCodeAddress : Byte
  /-- The 256-byte factory NVM image. -/
  defaultImage : List Byte
deriving DecidableEq, Repr

/-- One descriptor meets the invariants of R29 and R30. -/
abbrev DeviceDescriptor.wf (d : DeviceDescriptor) : Prop :=
  d.name ≠ [] ∧ d.readOnlyNvmPages.Nodup ∧ d.eraseTriggerMask &&& 0x1F#8 = 0#8 ∧ d.defaultImage.length = 256

/-- The named parameters of R8, fixed for a machine: no command and no host move writes them (R30).
INIT_DEVICE and INIT_CC are arguments of controller reset (R113) and stand there. -/
structure Params where
  /-- DESCRIPTORS. -/
  descriptors : List DeviceDescriptor
  /-- RO_POLICY. -/
  roPolicy : RoPolicy
  /-- ERRATA_WORKAROUND. -/
  errataWorkaround : Bool
  /-- ERRATA_DUMMY_PAYLOAD. -/
  errataDummyPayload : DummyPayload
  /-- MAX_WRITE, in bytes. -/
  maxWrite : Nat
  /-- T_ERASE, a lower bound in milliseconds that no rule reads (R125). -/
  tErase : Nat
  /-- T_PROGRAM, a lower bound in milliseconds that no rule reads (R125). -/
  tProgram : Nat
  /-- T_RESET, a lower bound in milliseconds that no rule reads (R125). -/
  tReset : Nat
deriving DecidableEq, Repr

/-- The descriptor table is one the spec admits (R30). -/
abbrev Params.wf (c : Params) : Prop :=
  1 ≤ c.descriptors.length ∧ c.descriptors.length ≤ 256 ∧ (c.descriptors.map DeviceDescriptor.name).Nodup ∧
    ∀ d ∈ c.descriptors, d.wf

/-- FREE VALUE: the `n`-th byte drawn wherever the spec says a byte is unspecified (R25, R33, R114). -/
opaque Config.freeByte : Nat → Byte

/-- FREE VALUE: the transport's answer to a write that no script answers (R41): true, false, or none at all (R106). -/
opaque Config.freeWriteAnswer : Nat → Option Bool

/-- FREE VALUE: the transport's answer to a read that no script answers (R41), or none at all (R106). -/
opaque Config.freeReadAnswer : Nat → Option ReadReply

/-- OPEN (R31, I12): the erase trigger address of "SLG46826". -/
opaque Config.slgEraseTriggerAddress : Byte

/-- OPEN (R31, I12): bits 7..5 of the erase trigger mask of "SLG46826". -/
opaque Config.slgEraseTriggerBits : BitVec 3

/-- OPEN (R31, I12): the control-code address of "SLG46826". -/
opaque Config.slgControlCodeAddress : Byte

/-- OPEN (R31, I12): byte `a` of the factory image of "SLG46826". -/
opaque Config.slgDefaultImage : Nat → Byte

/-- INIT_CC (R8): the control code the block is constructed with. The spec gives no default. -/
opaque Config.initCc : ControlCode

/-- The one known entry (R31): only the name and the read-only pages are in the source; the other fields are OPEN. -/
def Config.slg46826 : DeviceDescriptor where
  name := [0x53, 0x4C, 0x47, 0x34, 0x36, 0x38, 0x32, 0x36]
  readOnlyNvmPages := [15]
  eraseTriggerAddress := Config.slgEraseTriggerAddress
  eraseTriggerMask := Config.slgEraseTriggerBits ++ 0#5
  controlCodeAddress := Config.slgControlCodeAddress
  defaultImage := (List.range 256).map Config.slgDefaultImage

/-- The parameters of the machine of `State.reset`: the defaults of R8. -/
def Config.defaultParams : Params where
  descriptors := [Config.slg46826]
  roPolicy := .skip
  errataWorkaround := true
  errataDummyPayload := .zeroLength
  maxWrite := 257
  tErase := 20
  tProgram := 20
  tReset := 100

end Sys2Proof
end

