-- ==== Sys2Proof/Machine/State.lean ====
section
/-! DEFINITION. The state of the block (10_state.md), as plain data: every register, the session, the sequencer's pc and
locals, the parameters, and the model's own fields for the agents around it. -/

namespace Sys2Proof.Machine

/-- STATUS.PSTATE (R22): the page-mutation state. -/
inductive PState
  | none
  | check
  | clean
  | erasing
  | erased
  | programming
  | verified
  | failed
deriving DecidableEq, Repr

/-- STATUS.ERR (R100). The reserved codes 9..15 have no constructor: they are never written. -/
inductive ErrCode
  | none
  | transportError
  | readOnlyPageError
  | eraseVerificationError
  | programVerificationError
  | invalidSpecError
  | unknownDeviceError
  | preconditionError
  | illegalCommand
deriving DecidableEq, Repr

/-- The fields of STATUS (R21); its reserved bits hold nothing and read 0 (R26). The word is `Status.word`. -/
structure Status where
  busy : Bool
  done : Bool
  overrun : Bool
  err : ErrCode
  pstate : PState
  ppage : Page
  pspace : Space
deriving DecidableEq, Repr

/-- The fields of ERRINFO (R24); its reserved bits hold nothing and read 0 (R26). The word is `ErrInfo.word`. -/
structure ErrInfo where
  addr7 : Addr7
  /-- 1 when the failing transaction was a BusRead. -/
  dir : Bool
  page : Page
  pageValid : Bool
  lengthMismatch : Bool
deriving DecidableEq, Repr

/-- The labels of the bus primitives of ErasePage (R79). -/
inductive EraseLabel
  | e1Rb1
  | e1Rb2
  | e2Wb1
  | e3
  | e4D1
  | e5Rb1
  | e5Rb2
deriving DecidableEq, Repr

/-- The labels of the bus primitives of ProgramPage (R80); those of the nested ErasePage are qualified by P2. -/
inductive PageLabel
  | p1Rb1
  | p1Rb2
  | p2 (l : EraseLabel)
  | p3Wb1
  | p4
  | p5Rb1
  | p5Rb2
deriving DecidableEq, Repr

/-- The labels a running command resumes at (R32). -/
inductive Label
  /-- The first step of the command: decode and precondition checks (R34, R97). -/
  | start
  /-- RB1, the address write of MemRead (R70). -/
  | rb1
  /-- RB2, the data read of MemRead (R70). -/
  | rb2
  /-- WB1, the write of MemWrite (R71). -/
  | wb1
  /-- E1 to E5 of ERASE_PAGE (R87). -/
  | erase (l : EraseLabel)
  /-- P1 to P5 of PROGRAM_PAGE (R88). -/
  | page (l : PageLabel)
  /-- M.P1 to M.P5 of PROGRAM_PAGES and PROGRAM_CONTROL_CODE, with `locals.i` (R81). -/
  | pages (l : PageLabel)
  /-- X1.WB1 of RESET_DEVICE (R90). -/
  | x1Wb1
  /-- X2 of RESET_DEVICE (R90). -/
  | x2
  /-- S1 of SCAN_DEVICE (R91). -/
  | s1
  /-- S(c) of SCAN_DEVICES, with `locals.c` (R92). -/
  | scan
deriving DecidableEq, Repr

/-- The sequencer's pc (R32): IDLE, or a resumption point of the command in CMDREG. -/
inductive Pc
  | idle
  | resume (l : Label)
deriving DecidableEq, Repr

/-- The sequencer's local registers (R33), invisible to the host. The pseudocode's `cur` and `v` stand in `buf`, the
read-back buffer. -/
structure Locals where
  buf : List Byte
  img : List Byte
  i : BitVec 4
  p : Page
  skipped : BitVec 16
  programmed : BitVec 16
  found : BitVec 16
  c : ControlCode
  erasedNow : Bool
deriving DecidableEq, Repr

/-- The bus primitives (R12). -/
inductive Primitive
  | busWrite
  | busRead
  | wait
deriving DecidableEq, Repr

/-- Which wait (R44). -/
inductive WaitKind
  | erase
  | program
  | reset
deriving DecidableEq, Repr

/-- One event of the trace (R45). -/
inductive Event
  /-- `W(a7, bytes, ok)`. -/
  | write (a7 : Addr7) (bytes : List Byte) (ok : Bool)
  /-- `R(a7, n, answer)`. -/
  | read (a7 : Addr7) (n : Nat) (answer : ReadReply)
  /-- `T(k)`. -/
  | wait (k : WaitKind)
deriving DecidableEq, Repr

/-- The DATA buffer as a list of (index, byte) pairs in one canonical form: indices strictly rising and below 256, no
entry equal to what an unlisted index reads as. -/
abbrev Memory := List Host.Cell

/-- What the host can do (R17): access the window, assert controller reset, or run a line of a script. -/
inductive HostMove
  /-- A 32-bit write at a byte offset of the window (R19). -/
  | write (offset : Nat) (word : Word)
  /-- A 32-bit read at a byte offset of the window (R19). -/
  | read (offset : Nat)
  /-- Controller reset with its construction arguments (R113). -/
  | reset (initDevice : Byte) (initCc : ControlCode)
  /-- A `.data` or `.string` line of a script, performed only when BUSY = 0 (R66). -/
  | directive (index : Nat) (bytes : List Byte)
  /-- A command line of a script: it waits until BUSY = 0, then writes its word to CMDREG (R66). -/
  | command (word : Word)
deriving DecidableEq, Repr

/-- Whose turn it is: the sequencer takes one step, or the host makes one move. -/
inductive Turn
  | sequencer
  | host (m : HostMove)
deriving DecidableEq, Repr

/-- The model's own faults. The spec's errors are not faults: they end a command (`raise`). -/
inductive Fault
  /-- Raised by a meaning whose sequencer pc is IDLE or a label of another command. R32 has no such state, and no run
  reaches one. Safe. -/
  | noResumption
  /-- Raised by a meaning that needs the selected descriptor when DEVSEL is no index of DESCRIPTORS. R114 and R96 leave
  no such state, and no run reaches one. Safe. -/
  | noDescriptor
deriving DecidableEq, Repr

/-- Reasons the model has no such move. -/
inductive Refusal
  /-- Answered by an arm of `exec` whose command has no meaning yet. Safe. -/
  | notModelled (mnemonic : String)
  /-- Answered to a host access at an unaligned offset or outside the window (R19: the host has no such move). Safe. -/
  | badHostAccess (offset : Nat)
  /-- Answered to a controller reset whose device index is not in DESCRIPTORS (R115: no block is built). Safe. -/
  | noLaunch (initDevice : Byte)
  /-- Answered to a script directive that runs past DATA[255] (R66: there is no such byte). Safe. -/
  | badDirective (index length : Nat)
deriving DecidableEq, Repr

/-- The state of the block and of the agents' inputs to it. -/
structure State where
  /-- The parameters of R8; never written. -/
  params : Params
  /-- CMDREG (R20). -/
  cmdreg : Word
  /-- STATUS (R21). -/
  status : Status
  /-- RESULT (R23). -/
  result : Word
  /-- ERRINFO (R24). -/
  errinfo : ErrInfo
  /-- CC (R27). -/
  cc : ControlCode
  /-- DEVSEL (R27). -/
  devsel : Byte
  /-- DATA (R25). -/
  data : Memory
  /-- The sequencer's pc (R32). -/
  pc : Pc
  /-- The sequencer's locals (R33). -/
  locals : Locals
  /-- The model's own: the bus events so far, oldest first (R45). -/
  trace : List Event
  /-- The model's own: the transport's scripted answers to the next writes; `none` never comes (R41, R106). -/
  writeAnswers : List (Option Bool)
  /-- The model's own: the transport's scripted answers to the next reads; `none` never comes (R41, R106). -/
  readAnswers : List (Option ReadReply)
  /-- The model's own: how many free bytes have been drawn. -/
  draws : Nat
  /-- The model's own: how many answers of the transport have been drawn. The host does not move it, so an answer that never
  comes stays away until controller reset (R106). -/
  answerDraws : Nat
  /-- The model's own: what the host's last read returned. -/
  hostRead : Word
  /-- The model's own: the turns to come; when none is listed the turn is the sequencer's. -/
  schedule : List Turn
deriving DecidableEq, Repr

/-- What a step or a meaning answers. -/
abbrev Result := Host.Outcome State Fault Refusal

/-- STATUS after controller reset: 0 (R114). -/
def Status.zero : Status where
  busy := false
  done := false
  overrun := false
  err := .none
  pstate := .none
  ppage := 0
  pspace := .register

/-- ERRINFO after controller reset and after acceptance: 0 (R114, R97). -/
def ErrInfo.zero : ErrInfo where
  addr7 := 0
  dir := false
  page := 0
  pageValid := false
  lengthMismatch := false

/-- The locals of `State.reset`. DESIGN CHOICE: R114 leaves them unspecified (log 5). -/
def Locals.zero : Locals where
  buf := List.replicate 16 0
  img := List.replicate 16 0
  i := 0
  p := 0
  skipped := 0
  programmed := 0
  found := 0
  c := 0
  erasedNow := false

/-- The block right after controller reset (R114), constructed with the parameters' defaults. DESIGN CHOICE: DATA and
the locals, which R114 leaves unspecified, are zero here (log 4, log 5). -/
def State.reset : State where
  params := Config.defaultParams
  cmdreg := 0
  status := Status.zero
  result := 0
  errinfo := ErrInfo.zero
  cc := Config.initCc
  devsel := 0
  data := []
  pc := .idle
  locals := Locals.zero
  trace := []
  writeAnswers := []
  readAnswers := []
  draws := 0
  answerDraws := 0
  hostRead := 0
  schedule := []

end Sys2Proof.Machine
end

