-- ==== Sys2Proof/Machine/Flags.lean ====
section
/-! DEFINITION. The codes of the status fields and the words the host reads (R21, R22, R24, R100). The block has no
arithmetic flags (R36): these are all the flags it has. -/

namespace Sys2Proof.Machine

/-- The PSTATE encoding (R22). -/
def PState.code : PState → BitVec 3
  | .none => 0
  | .check => 1
  | .clean => 2
  | .erasing => 3
  | .erased => 4
  | .programming => 5
  | .verified => 6
  | .failed => 7

/-- The error codes (R100). -/
def ErrCode.code : ErrCode → BitVec 4
  | .none => 0
  | .transportError => 1
  | .readOnlyPageError => 2
  | .eraseVerificationError => 3
  | .programVerificationError => 4
  | .invalidSpecError => 5
  | .unknownDeviceError => 6
  | .preconditionError => 7
  | .illegalCommand => 8

/-- The STATUS word (R21), from bit 31 down: reserved, PSPACE, PPAGE, reserved, PSTATE, ERR, reserved, OVERRUN, DONE,
BUSY. -/
def Status.word (st : Status) : Word :=
  0#14 ++ spaceCode st.pspace ++ st.ppage ++ 0#1 ++ st.pstate.code ++ st.err.code ++ 0#1 ++ BitVec.ofBool st.overrun ++
    BitVec.ofBool st.done ++ BitVec.ofBool st.busy

/-- The ERRINFO word (R24), from bit 31 down: reserved, LENGTH_MISMATCH, PAGE_VALID, PAGE, DIR, ADDR7. -/
def ErrInfo.word (e : ErrInfo) : Word :=
  0#18 ++ BitVec.ofBool e.lengthMismatch ++ BitVec.ofBool e.pageValid ++ e.page ++ BitVec.ofBool e.dir ++ e.addr7

/-- An error a command raises, with its error information (R99, R100). -/
inductive Error
  | transport (addr7 : Addr7) (isRead lengthMismatch : Bool)
  | readOnlyPage (page : Page)
  | eraseVerification (page : Page)
  | programVerification (page : Page)
  | invalidSpec
  | unknownDevice
  | precondition
  | illegalCommand
deriving DecidableEq, Repr

/-- `code(E)` of R99, as the name whose number R100 gives. -/
def Error.code : Error → ErrCode
  | .transport _ _ _ => .transportError
  | .readOnlyPage _ => .readOnlyPageError
  | .eraseVerification _ => .eraseVerificationError
  | .programVerification _ => .programVerificationError
  | .invalidSpec => .invalidSpecError
  | .unknownDevice => .unknownDeviceError
  | .precondition => .preconditionError
  | .illegalCommand => .illegalCommand

/-- `info.addr7`, 0 if absent (R99). -/
def Error.addr7 : Error → Addr7
  | .transport a _ _ => a
  | _ => 0

/-- `info.dir == R` (R99). -/
def Error.isRead : Error → Bool
  | .transport _ r _ => r
  | _ => false

/-- `info.length_mismatch`, 0 if absent (R99). -/
def Error.lengthMismatch : Error → Bool
  | .transport _ _ m => m
  | _ => false

/-- `info.page`, if the error names a page (R99, R100). -/
def Error.page? : Error → Option Page
  | .readOnlyPage p => some p
  | .eraseVerification p => some p
  | .programVerification p => some p
  | _ => none

/-- ERRINFO as R99 writes it: the error's own page first, else the page of the page procedure in progress. -/
def raisedErrInfo (e : Error) (st : Status) (old : ErrInfo) : ErrInfo where
  addr7 := e.addr7
  dir := e.isRead
  lengthMismatch := e.lengthMismatch
  page :=
    match e.page? with
    | some p => p
    | none => if st.pstate = .none then old.page else st.ppage
  pageValid :=
    match e.page? with
    | some _ => true
    | none => if st.pstate = .none then old.pageValid else true

/-- STATUS as R99 writes it: the error's code, PSTATE FAILED if a page procedure has run, BUSY 0, DONE 1. -/
def raisedStatus (e : Error) (st : Status) : Status :=
  { st with
    err := e.code
    pstate := if st.pstate = .none then .none else .failed
    busy := false
    done := true }

/-- STATUS as R98 leaves it. -/
def finishedStatus (st : Status) : Status := { st with busy := false, done := true }

/-- STATUS as acceptance leaves it (R97): OVERRUN alone is kept. -/
def acceptedStatus (st : Status) : Status :=
  { Status.zero with busy := true, overrun := st.overrun }

end Sys2Proof.Machine
end

