-- ==== Sys2Proof/Machine/Operands.lean ====
section
/-! DEFINITION. The operand forms: the address translation every bus primitive uses (R67), the operand ranges the
commands check (R47, R60, R72 to R96), page addresses, and the device descriptor (R29). -/

namespace Sys2Proof.Machine

/-- The sub-address of a space (R67, SUBADDR of R7). -/
def sub : Space → BitVec 3
  | .register => 0b000
  | .nvm => 0b010
  | .eeprom => 0b011

/-- `Translate(space, cc) = (cc << 3) | sub(space)` (R67). -/
def translate (space : Space) (cc : ControlCode) : Addr7 :=
  (cc.setWidth 7 <<< 3) ||| (sub space).setWidth 7

/-- `all_zero(xs)` (R10). -/
def allZero (xs : List Byte) : Bool := xs.all (· == 0)

/-- The address of the first byte of a page, `p << 4` (R37). -/
def pageAddress (p : Page) : Byte := p.setWidth 8 <<< 4

/-- `count == 0 or start + count > 256`, on unbounded naturals (R9, R72, R73). -/
def badRange (start : Byte) (count : BitVec 9) : Bool :=
  decide (count.toNat = 0 ∨ start.toNat + count.toNat > 256)

/-- The NVM and EEPROM write requirement fails: a start that is no multiple of 16, or a count other than 16 (R47, R73). -/
def badNvWrite (space : Space) (start : Byte) (count : BitVec 9) : Bool :=
  decide (space ≠ .register ∧ (start.toNat % 16 ≠ 0 ∨ count.toNat ≠ 16))

/-- `space == Register or page > 15` (R74, R86, R87, R88). -/
def badPage (space : Space) (page : Byte) : Bool := decide (space = .register ∨ page.toNat > 15)

/-- The checks of PROGRAM_PAGES (R89): no Register space, a positive multiple of 16 bytes, within 256. -/
def badPages (space : Space) (startPage : Byte) (count : BitVec 9) : Bool :=
  decide (space = .register) ||
    decide (count.toNat = 0 ∨ count.toNat % 16 ≠ 0 ∨ startPage.toNat * 16 + count.toNat > 256)

/-- A control-code or page operand above 15 (R69, R85, R91, R95). -/
def above15 (arg : Byte) : Bool := decide (arg.toNat > 15)

/-- The low four bits of an operand that has passed its range check. -/
def nibble (arg : Byte) : BitVec 4 := arg.setWidth 4

/-- `desc = DESCRIPTORS[DEVSEL]` (R11), if DEVSEL is an index of the table. -/
def State.desc? (s : State) : Option DeviceDescriptor := s.params.descriptors[s.devsel.toNat]?

/-- A meaning that reads the selected descriptor. -/
def withDesc (s : State) (f : DeviceDescriptor → State) : Result :=
  match s.desc? with
  | some d => .next (f d)
  | none => .fault .noDescriptor

/-- PageWritable (R75). -/
def pageWritable (d : DeviceDescriptor) (space : Space) (p : Page) : Bool :=
  if space = .nvm then !d.readOnlyNvmPages.contains p else true

/-- TriggerByte (R77). -/
def triggerByte (d : DeviceDescriptor) (space : Space) (p : Page) : Byte :=
  d.eraseTriggerMask ||| (if space = .eeprom then 0x10 else 0x00) ||| p.setWidth 8

/-- The bytes of ERRATA_DUMMY_PAYLOAD (R8, R78). -/
def dummyBytes : DummyPayload → List Byte
  | .zeroLength => []
  | .zeroByte => [0x00]

/-- The characters of a control-code specification, most significant first (R93): `fixed` and `sel` so far. The bit of a
character is the number of characters after it. -/
def parseSpecChars : List Byte → BitVec 4 → BitVec 4 → Option (BitVec 4 × BitVec 4)
  | [], fixed, sel => some (fixed, sel)
  | ch :: rest, fixed, sel =>
    if ch = 0x30 then parseSpecChars rest fixed sel
    else if ch = 0x31 then parseSpecChars rest (fixed ||| 1 <<< rest.length) sel
    else if ch = 0x58 then parseSpecChars rest fixed (sel ||| 1 <<< rest.length)
    else none

/-- ParseSpec (R93): the packed byte `(sel << 4) | fixed`, or none where it raises InvalidSpecError. -/
def parseSpec (xs : List Byte) : Option Byte :=
  if xs.length ≠ 4 then none
  else
    match parseSpecChars xs 0 0 with
    | some (fixed, sel) => some ((sel.setWidth 8 <<< 4) ||| fixed.setWidth 8)
    | none => none

/-- The default NVM page that holds the control-code byte, with that byte replaced (R94). -/
def controlCodePage (d : DeviceDescriptor) (b : Byte) : List Byte :=
  let a := d.controlCodeAddress.toNat
  ((d.defaultImage.drop (a / 16 * 16)).take 16).set (a % 16) b

/-- The page that holds the control-code byte, `a >> 4` (R94). -/
def controlCodePageIndex (d : DeviceDescriptor) : Page := (d.controlCodeAddress >>> 4).setWidth 4

/-- The set bits of a 16-bit map, ascending (R92). -/
def setBits (m : BitVec 16) : List Nat := (List.range 16).filter (fun k => m.getLsbD k)

/-- RESULT of SCAN_DEVICES: presence bitmap and count (R92). -/
def scanResult (found : BitVec 16) : Word :=
  found.setWidth 32 ||| (BitVec.ofNat 32 (setBits found).length <<< 16)

/-- A map with one more bit set, `m | (1 << k)` (R81, R92). -/
def addBit (m : BitVec 16) (k : BitVec 4) : BitVec 16 := m ||| 1#16 <<< k.toNat

/-- `(programmed << 16) | skipped` (R82). -/
def resultBitmaps (programmed skipped : BitVec 16) : Word :=
  (programmed.setWidth 32 <<< 16) ||| skipped.setWidth 32

end Sys2Proof.Machine
end

