-- ==== Sys2Proof/Machine/Ops.lean ====
section
/-! DEFINITION. The shared operations: the DATA buffer, updates of the state, ending a command by `finish` (R98) or by
`raise` (R99), acceptance (R97), the bus primitives (R42 to R44), and MemRead and MemWrite (R70, R71). -/

namespace Sys2Proof.Machine

/-! ### The DATA buffer (R25) -/

/-- What an unlisted index of DATA reads as. DESIGN CHOICE: R25 gives no reset value (log 4). -/
def Memory.unlisted : Byte := 0

/-- The byte at an index. -/
def Memory.read : Memory → Nat → Byte
  | [], _ => Memory.unlisted
  | (k, v) :: m, a => if k = a then v else Memory.read m a

/-- A byte in front of a list whose indices are all greater, unless it is what an unlisted index reads as. -/
def Memory.cons (a : Nat) (b : Byte) (m : Memory) : Memory := if b = Memory.unlisted then m else (a, b) :: m

/-- One byte stored; the canonical form is kept. -/
def Memory.write : Memory → Nat → Byte → Memory
  | [], a, b => Memory.cons a b []
  | (k, v) :: m, a, b =>
    if a < k then Memory.cons a b ((k, v) :: m)
    else if a = k then Memory.cons a b m
    else (k, v) :: Memory.write m a b

/-- The bytes of a list stored from index `a` on, in list order. -/
def Memory.writeList : Memory → Nat → List Byte → Memory
  | m, _, [] => m
  | m, a, b :: bs => Memory.writeList (Memory.write m a b) (a + 1) bs

/-- The canonical form: indices strictly rising, within the buffer, and no entry equal to what an unlisted index reads
as. -/
abbrev Memory.wf (m : Memory) : Prop :=
  List.Pairwise (· < ·) (m.map Prod.fst) ∧ ∀ c ∈ m, c.1 < 256 ∧ c.2 ≠ Memory.unlisted

/-- `DATA[a .. a + n)` (R10, R25). -/
def State.dataSlice (s : State) (a n : Nat) : List Byte := (List.range n).map (fun k => s.data.read (a + k))

/-! ### Updates of the state -/

/-- `pc <- p` (R11). -/
def State.setPc (s : State) (p : Pc) : State := { s with pc := p }

/-- The pc moves to a label of the running command (R32). -/
def State.setLabel (s : State) (l : Label) : State := s.setPc (.resume l)

/-- STATUS is replaced. -/
def State.setStatus (s : State) (st : Status) : State := { s with status := st }

/-- `PSTATE <- p` (R83). -/
def State.setPState (s : State) (p : PState) : State := s.setStatus { s.status with pstate := p }

/-- `RESULT <- r`. -/
def State.setResult (s : State) (r : Word) : State := { s with result := r }

/-- ERRINFO is replaced. -/
def State.setErrInfo (s : State) (e : ErrInfo) : State := { s with errinfo := e }

/-- DATA is replaced. -/
def State.setData (s : State) (m : Memory) : State := { s with data := m }

/-- The locals are replaced. -/
def State.setLocals (s : State) (l : Locals) : State := { s with locals := l }

/-- `CC <- cc`. -/
def State.setCc (s : State) (cc : ControlCode) : State := { s with cc := cc }

/-- `DEVSEL <- k`. -/
def State.setDevsel (s : State) (k : Byte) : State := { s with devsel := k }

/-- `buf <- xs` (R33). -/
def State.setBuf (s : State) (xs : List Byte) : State := s.setLocals { s.locals with buf := xs }

/-- One more event of the trace (R45). -/
def State.record (s : State) (e : Event) : State := { s with trace := s.trace ++ [e] }

/-- `DATA[k] <- xs[k]` for every k (R72, R74, R92). -/
def State.storeData (s : State) (xs : List Byte) : State := s.setData (s.data.writeList 0 xs)

/-- The command in CMDREG (R62). -/
def State.command (s : State) : Instr := decodeWord s.cmdreg

/-! ### Free values -/

/-- `n` free bytes, the first of number `d`. -/
def freeBytes (d n : Nat) : List Byte := (List.range n).map (fun k => Config.freeByte (d + k))

/-- A free host word, of four free bytes. -/
def freeWord (d : Nat) : Word :=
  bytesWord (Config.freeByte d) (Config.freeByte (d + 1)) (Config.freeByte (d + 2)) (Config.freeByte (d + 3))

/-- How many free bytes `freeLocals` draws. -/
def freeLocalsSize : Nat := 42

/-- Unspecified locals (R33): every one a free value. -/
def freeLocals (d : Nat) : Locals where
  buf := freeBytes d 16
  img := freeBytes (d + 16) 16
  i := (Config.freeByte (d + 32)).setWidth 4
  p := (Config.freeByte (d + 33)).setWidth 4
  skipped := Config.freeByte (d + 34) ++ Config.freeByte (d + 35)
  programmed := Config.freeByte (d + 36) ++ Config.freeByte (d + 37)
  found := Config.freeByte (d + 38) ++ Config.freeByte (d + 39)
  c := (Config.freeByte (d + 40)).setWidth 4
  erasedNow := (Config.freeByte (d + 41)).getLsbD 0

/-! ### The command lifecycle -/

/-- `finish(r)` (R98). -/
def finish (r : Word) (s : State) : State :=
  ((s.setResult r).setStatus (finishedStatus s.status)).setPc .idle

/-- `raise E(info)` (R99): the ONE operation by which every error is taken. RESULT, DATA and the trace keep what the
command wrote before. There is no return from it: the next acceptance clears it (R105). -/
def raise (e : Error) (s : State) : State :=
  ((s.setErrInfo (raisedErrInfo e s.status s.errinfo)).setStatus (raisedStatus e s.status)).setPc .idle

/-- Acceptance of a word (R97). The locals are unspecified at acceptance (R33), so each is a free value (log 5). -/
def accept (w : Word) (s : State) : State :=
  { s with
    cmdreg := w
    status := acceptedStatus s.status
    result := 0
    errinfo := ErrInfo.zero
    pc := .resume .start
    locals := freeLocals s.draws
    draws := s.draws + freeLocalsSize }

/-! ### The bus primitives -/

/-- The primitive at a label of ErasePage (R79). -/
def erasePrimitive : EraseLabel → Primitive
  | .e1Rb1 | .e2Wb1 | .e4D1 | .e5Rb1 => .busWrite
  | .e1Rb2 | .e5Rb2 => .busRead
  | .e3 => .wait

/-- The primitive at a label of ProgramPage (R80). -/
def pagePrimitive : PageLabel → Primitive
  | .p1Rb1 | .p3Wb1 | .p5Rb1 => .busWrite
  | .p1Rb2 | .p5Rb2 => .busRead
  | .p2 l => erasePrimitive l
  | .p4 => .wait

/-- The primitive that a label names (R32); none at a command's first step, which issues none (R34). -/
def labelPrimitive : Label → Option Primitive
  | .start => none
  | .rb1 | .wb1 | .x1Wb1 | .s1 | .scan => some .busWrite
  | .rb2 => some .busRead
  | .x2 => some .wait
  | .erase l => some (erasePrimitive l)
  | .page l => some (pagePrimitive l)
  | .pages l => some (pagePrimitive l)

/-- The sequencer's next step issues the primitive. -/
def State.issues (s : State) (k : Primitive) : Bool :=
  match s.pc with
  | .resume l => labelPrimitive l == some k
  | .idle => false

/-- A script of answers without the one at its head that never comes: the transaction that waited for it is abandoned. -/
def dropNever {α : Type} : List (Option α) → List (Option α)
  | none :: rest => rest
  | answers => answers

/-- The transport's answer to the next write (R41): the script's, else a free value; none when it never comes (R106). -/
def takeWriteAnswer (s : State) : Option (Bool × State) :=
  match s.writeAnswers with
  | some ok :: rest => some (ok, { s with writeAnswers := rest })
  | none :: _ => none
  | [] =>
    match Config.freeWriteAnswer s.answerDraws with
    | some ok => some (ok, { s with answerDraws := s.answerDraws + 1 })
    | none => none

/-- A read delivers at most 256 bytes (R41). -/
def boundReply : ReadReply → ReadReply
  | .fail => .fail
  | .bytes xs => .bytes (xs.take 256)

/-- The transport's answer to the next read (R41): the script's, else a free value; none when it never comes (R106). -/
def takeReadAnswer (s : State) : Option (ReadReply × State) :=
  match s.readAnswers with
  | some r :: rest => some (boundReply r, { s with readAnswers := rest })
  | none :: _ => none
  | [] =>
    match Config.freeReadAnswer s.answerDraws with
    | some r => some (boundReply r, { s with answerDraws := s.answerDraws + 1 })
    | none => none

/-- `BusWrite(a7, bytes)` (R42): none while the transport does not answer. A write longer than MAX_WRITE is one the
transport cannot carry and answers false (D15, log 15). -/
def busWrite (a7 : Addr7) (bytes : List Byte) (s : State) : Option (Bool × State) :=
  match takeWriteAnswer s with
  | some (answer, s') =>
    let ok := answer && decide (bytes.length ≤ s.params.maxWrite)
    some (ok, s'.record (.write a7 bytes ok))
  | none => none

/-- `BusRead(a7, n)` (R43): none while the transport does not answer. -/
def busRead (a7 : Addr7) (n : Nat) (s : State) : Option (ReadReply × State) :=
  match takeReadAnswer s with
  | some (answer, s') => some (answer, s'.record (.read a7 n answer))
  | none => none

/-- `Wait(k)` (R44): one step, one event, no transaction. -/
def busWait (k : WaitKind) (s : State) : State := s.record (.wait k)

/-! ### MemRead and MemWrite -/

/-- RB1 of MemRead (R70): the address write. It goes on at `next`; while the transport does not answer nothing changes
(R106). -/
def readAddress (space : Space) (a : Byte) (next : Label) (s : State) : State :=
  match busWrite (translate space s.cc) [a] s with
  | some (true, s') => s'.setLabel next
  | some (false, s') => raise (.transport (translate space s.cc) false false) s'
  | none => s

/-- RB2 of MemRead (R70): the data read of `n` bytes, and the check of its length. It goes on with `k`. -/
def readData (space : Space) (n : Nat) (k : List Byte → State → State) (s : State) : State :=
  match busRead (translate space s.cc) n s with
  | some (.bytes xs, s') =>
    if xs.length = n then k xs s' else raise (.transport (translate space s.cc) true true) s'
  | some (.fail, s') => raise (.transport (translate space s.cc) true false) s'
  | none => s

/-- WB1 of MemWrite (R71): the one transfer of `[a] ++ v`. It goes on with `k`. -/
def memWrite (space : Space) (a : Byte) (v : List Byte) (k : State → State) (s : State) : State :=
  match busWrite (translate space s.cc) (a :: v) s with
  | some (true, s') => k s'
  | some (false, s') => raise (.transport (translate space s.cc) false false) s'
  | none => s

end Sys2Proof.Machine
end

