-- ==== Sys2Proof/Machine/PageSequencer.lean ====
section
/-! DEFINITION. The page erase/program/verify sequencer (42_page_sequencer.md). A procedure is one function of the label
it stands at; `lbl` qualifies its labels by its caller's, and `ret` is what its caller does with its answer, in the same
step (R34). -/

namespace Sys2Proof.Machine

/-- BeginPage (R76). -/
def beginPage (space : Space) (p : Page) (s : State) : State :=
  s.setStatus { s.status with ppage := p, pspace := space, pstate := .check }

/-- Step 1 of ErasePage (R79), up to its first primitive. -/
def enterErasePage (d : DeviceDescriptor) (space : Space) (p : Page) (lbl : EraseLabel → Label) (s : State) : State :=
  if pageWritable d space p then s.setLabel (lbl .e1Rb1) else raise (.readOnlyPage p) s

/-- Errata (R78): the dummy write whose answer is discarded, the only one the block ever ignores (R103). It goes on at
`next`. -/
def errata (next : Label) (s : State) : State :=
  match busWrite (translate .register s.cc) (dummyBytes s.params.errataDummyPayload) s with
  | some (_, s') => s'.setLabel next
  | none => s

/-- ErasePage (R79) at a label. -/
def erasePageStep (d : DeviceDescriptor) (space : Space) (p : Page) (standalone : Bool) (lbl : EraseLabel → Label)
    (ret : Bool → State → State) (l : EraseLabel) (s : State) : State :=
  match l with
  | .e1Rb1 => readAddress space (pageAddress p) (lbl .e1Rb2) s
  | .e1Rb2 =>
    readData space 16
      (fun xs s' =>
        if allZero xs then ret false ((s'.setBuf xs).setPState (if standalone then .clean else .erased))
        else ((s'.setBuf xs).setPState .erasing).setLabel (lbl .e2Wb1)) s
  | .e2Wb1 =>
    memWrite .register d.eraseTriggerAddress [triggerByte d space p] (fun s' => s'.setLabel (lbl .e3)) s
  | .e3 => (busWait .erase s).setLabel (if s.params.errataWorkaround then lbl .e4D1 else lbl .e5Rb1)
  | .e4D1 => errata (lbl .e5Rb1) s
  | .e5Rb1 => readAddress space (pageAddress p) (lbl .e5Rb2) s
  | .e5Rb2 =>
    readData space 16
      (fun xs s' =>
        if allZero xs then ret true ((s'.setBuf xs).setPState .erased)
        else raise (.eraseVerification p) (s'.setBuf xs)) s

/-- Step 1 of ProgramPage (R80), up to its first primitive. -/
def enterProgramPage (d : DeviceDescriptor) (space : Space) (p : Page) (lbl : PageLabel → Label) (s : State) : State :=
  if pageWritable d space p then (beginPage space p s).setLabel (lbl .p1Rb1)
  else raise (.readOnlyPage p) (beginPage space p s)

/-- ProgramPage (R80) at a label, with the 16-byte target `target`. -/
def programPageStep (d : DeviceDescriptor) (space : Space) (p : Page) (target : List Byte) (lbl : PageLabel → Label)
    (ret : Bool → Bool → State → State) (l : PageLabel) (s : State) : State :=
  match l with
  | .p1Rb1 => readAddress space (pageAddress p) (lbl .p1Rb2) s
  | .p1Rb2 =>
    readData space 16
      (fun xs s' =>
        if xs = target then ret false false ((s'.setBuf xs).setPState .clean)
        else enterErasePage d space p (fun e => lbl (.p2 e)) (s'.setBuf xs)) s
  | .p2 e =>
    erasePageStep d space p false (fun e' => lbl (.p2 e'))
      (fun erased s' =>
        ((s'.setLocals { s'.locals with erasedNow := erased }).setPState .programming).setLabel (lbl .p3Wb1)) e s
  | .p3Wb1 => memWrite space (pageAddress p) target (fun s' => s'.setLabel (lbl .p4)) s
  | .p4 => (busWait .program s).setLabel (lbl .p5Rb1)
  | .p5Rb1 => readAddress space (pageAddress p) (lbl .p5Rb2) s
  | .p5Rb2 =>
    readData space 16
      (fun xs s' =>
        if xs = target then ret true s'.locals.erasedNow ((s'.setBuf xs).setPState .verified)
        else raise (.programVerification p) (s'.setBuf xs)) s

/-- `RESULT <- (programmed << 16) | skipped` (R81, R82). -/
def writeBitmaps (s : State) : State := s.setResult (resultBitmaps s.locals.programmed s.locals.skipped)

/-- The loop of ProgramPages (R81) from page number `i` on, with `k` pages left, up to the next primitive or the end. -/
def pagesLoop (d : DeviceDescriptor) (space : Space) (sp : Page) : Nat → Nat → State → State
  | 0, _, s => finish (resultBitmaps s.locals.programmed s.locals.skipped) s
  | k + 1, i, s =>
    let p := sp + BitVec.ofNat 4 i
    let s' := s.setLocals { s.locals with i := BitVec.ofNat 4 i, p := p }
    if pageWritable d space p then enterProgramPage d space p .pages s'
    else
      pagesLoop d space sp k (i + 1)
        (writeBitmaps (s'.setLocals { s'.locals with skipped := addBit s'.locals.skipped p }))

/-- The first page of `sp .. sp + np - 1` that is not writable (R81, D10). -/
def firstReadOnly (d : DeviceDescriptor) (space : Space) (sp : Page) (np : Nat) : Option Page :=
  ((List.range np).map (fun i => sp + BitVec.ofNat 4 i)).find? (fun p => !pageWritable d space p)

/-- ProgramPages (R81) from its beginning, up to its first primitive or its end. -/
def enterProgramPages (d : DeviceDescriptor) (space : Space) (sp : Page) (np : Nat) (s : State) : State :=
  match (if s.params.roPolicy = .fail then firstReadOnly d space sp np else none) with
  | some p => raise (.readOnlyPage p) s
  | none => pagesLoop d space sp np 0 (s.setLocals { s.locals with skipped := 0, programmed := 0 })

/-- What ProgramPages does after the page procedure of page number `locals.i` (R81): the bitmaps, then the next page. -/
def afterPage (d : DeviceDescriptor) (space : Space) (sp : Page) (np : Nat) (prog : Bool) (s : State) : State :=
  let s' :=
    if prog then s.setLocals { s.locals with programmed := addBit s.locals.programmed s.locals.p } else s
  pagesLoop d space sp (np - (s'.locals.i.toNat + 1)) (s'.locals.i.toNat + 1) (writeBitmaps s')

/-- ProgramPages (R81) at a label of the page procedure of page number `locals.i`, with that page's target. -/
def programPagesStep (d : DeviceDescriptor) (space : Space) (sp : Page) (np : Nat) (target : List Byte) (l : PageLabel)
    (s : State) : State :=
  programPageStep d space s.locals.p target .pages (fun prog _ s' => afterPage d space sp np prog s') l s

/-- IS_PAGE_WRITABLE (R85). -/
def execIsPageWritable (space : Space) (page : Byte) (s : State) : Result :=
  match s.pc with
  | .resume .start =>
    if above15 page then .next (raise .precondition s)
    else withDesc s (fun d => finish (if pageWritable d space (nibble page) then 1 else 0) s)
  | _ => .fault .noResumption

/-- IS_PAGE_ERASED (R86). -/
def execIsPageErased (space : Space) (page : Byte) (s : State) : Result :=
  match s.pc with
  | .resume .start => .next (if badPage space page then raise .precondition s else s.setLabel .rb1)
  | .resume .rb1 => .next (readAddress space (pageAddress (nibble page)) .rb2 s)
  | .resume .rb2 => .next (readData space 16 (fun xs s' => finish (if allZero xs then 1 else 0) s') s)
  | _ => .fault .noResumption

/-- ERASE_PAGE (R87). RESULT[0] says whether an erase trigger was issued. -/
def execErasePage (space : Space) (page : Byte) (s : State) : Result :=
  match s.pc with
  | .resume .start =>
    if badPage space page then .next (raise .precondition s)
    else withDesc s (fun d => enterErasePage d space (nibble page) .erase (beginPage space (nibble page) s))
  | .resume (.erase l) =>
    withDesc s (fun d =>
      erasePageStep d space (nibble page) true .erase (fun e s' => finish (if e then 1 else 0) s') l s)
  | _ => .fault .noResumption

/-- PROGRAM_PAGE (R88). RESULT[0] says whether the page was written, RESULT[1] whether an erase trigger was issued. -/
def execProgramPage (space : Space) (page : Byte) (s : State) : Result :=
  match s.pc with
  | .resume .start =>
    if badPage space page then .next (raise .precondition s)
    else withDesc s (fun d => enterProgramPage d space (nibble page) .page s)
  | .resume (.page l) =>
    withDesc s (fun d =>
      programPageStep d space (nibble page) (s.dataSlice 0 16) .page
        (fun prog e s' => finish ((if e then 2 else 0) ||| (if prog then 1 else 0)) s') l s)
  | _ => .fault .noResumption

/-- PROGRAM_PAGES (R89). The target of page number i is DATA[16i .. 16i + 16). -/
def execProgramPages (space : Space) (startPage : Byte) (count : BitVec 9) (s : State) : Result :=
  match s.pc with
  | .resume .start =>
    if badPages space startPage count then .next (raise .precondition s)
    else withDesc s (fun d => enterProgramPages d space (nibble startPage) (count.toNat / 16) s)
  | .resume (.pages l) =>
    withDesc s (fun d =>
      programPagesStep d space (nibble startPage) (count.toNat / 16) (s.dataSlice (16 * s.locals.i.toNat) 16) l s)
  | _ => .fault .noResumption

end Sys2Proof.Machine
end

