-- ==== Sys2Proof/Machine/DeviceController.lean ====
section
/-! DEFINITION. The device controller's commands (43_device_controller.md), and the reserved row (R63). -/

namespace Sys2Proof.Machine

/-- RESET_DEVICE (R90): it resets the GreenPAK device, not the block. -/
def execResetDevice (s : State) : Result :=
  match s.pc with
  | .resume .start => .next (s.setLabel .x1Wb1)
  | .resume .x1Wb1 => .next (memWrite .register 0xC8 [0x02] (fun s' => s'.setLabel .x2) s)
  | .resume .x2 => .next (finish 0 (busWait .reset s))
  | _ => .fault .noResumption

/-- SCAN_DEVICE (R91): a false answer is a result, not an error (90_conflicts.md C6). -/
def execScanDevice (cc : Byte) (s : State) : Result :=
  match s.pc with
  | .resume .start => .next (if above15 cc then raise .precondition s else s.setLabel .s1)
  | .resume .s1 =>
    match busWrite (translate .register (nibble cc)) [] s with
    | some (ok, s') => .next (finish (if ok then 1 else 0) s')
    | none => .next s
  | _ => .fault .noResumption

/-- The end of SCAN_DEVICES (R92): the responding codes into DATA, ascending, and the result. -/
def finishScan (s : State) : State :=
  finish (scanResult s.locals.found) (s.storeData ((setBits s.locals.found).map (BitVec.ofNat 8)))

/-- The answer to the probe of code `locals.c`, noted in the bitmap (R92). -/
def markFound (ok : Bool) (s : State) : State :=
  if ok then s.setLocals { s.locals with found := addBit s.locals.found s.locals.c } else s

/-- After the probe of code `locals.c`: the next code, or the end (R92). -/
def afterProbe (s : State) : State :=
  if s.locals.c = 15 then finishScan s else (s.setLocals { s.locals with c := s.locals.c + 1 }).setLabel .scan

/-- SCAN_DEVICES (R92). -/
def execScanDevices (s : State) : Result :=
  match s.pc with
  | .resume .start => .next ((s.setLocals { s.locals with found := 0, c := 0 }).setLabel .scan)
  | .resume .scan =>
    match busWrite (translate .register s.locals.c) [] s with
    | some (ok, s') => .next (afterProbe (markFound ok s'))
    | none => .next s
  | _ => .fault .noResumption

/-- PROGRAM_CONTROL_CODE (R94). The image is built in the internal register `img`; CC is not changed. -/
def execProgramControlCode (count : BitVec 9) (s : State) : Result :=
  match s.pc with
  | .resume .start =>
    match parseSpec (s.dataSlice 0 count.toNat) with
    | none => .next (raise .invalidSpec s)
    | some b =>
      withDesc s (fun d =>
        enterProgramPages d .nvm (controlCodePageIndex d) 1
          (s.setLocals { s.locals with img := controlCodePage d b }))
  | .resume (.pages l) =>
    withDesc s (fun d =>
      programPagesStep d .nvm (controlCodePageIndex d) 1 ((s.locals.img.drop (16 * s.locals.i.toNat)).take 16) l s)
  | _ => .fault .noResumption

/-- SET_CONTROL_CODE (R95). -/
def execSetControlCode (cc : Byte) (s : State) : Result :=
  match s.pc with
  | .resume .start => .next (if above15 cc then raise .precondition s else finish 0 (s.setCc (nibble cc)))
  | _ => .fault .noResumption

/-- SET_DEVICE (R96): the first descriptor whose name equals DATA[0..n) byte for byte. -/
def execSetDevice (count : BitVec 9) (s : State) : Result :=
  match s.pc with
  | .resume .start =>
    .next
      (if count.toNat > 256 then raise .precondition s
       else
         match s.params.descriptors.findIdx? (fun d => d.name == s.dataSlice 0 count.toNat) with
         | some k => finish 0 (s.setDevsel (BitVec.ofNat 8 k))
         | none => raise .unknownDevice s)
  | _ => .fault .noResumption

/-- The reserved row (R62, R63): the command raises IllegalCommand at its first step. -/
def execIllegal (_word : Word) (s : State) : Result :=
  match s.pc with
  | .resume .start => .next (raise .illegalCommand s)
  | _ => .fault .noResumption

end Sys2Proof.Machine
end

