-- ==== Sys2Proof/Machine/RawAccess.lean ====
section
/-! DEFINITION. Raw byte and page access (41_raw_access.md). Each meaning is one step of the sequencer at the label the
pc holds (R34). -/

namespace Sys2Proof.Machine

/-- READ_BYTES (R72). -/
def execReadBytes (space : Space) (start : Byte) (count : BitVec 9) (s : State) : Result :=
  match s.pc with
  | .resume .start => .next (if badRange start count then raise .precondition s else s.setLabel .rb1)
  | .resume .rb1 => .next (readAddress space start .rb2 s)
  | .resume .rb2 => .next (readData space count.toNat (fun xs s' => finish 0 (s'.storeData xs)) s)
  | _ => .fault .noResumption

/-- WRITE_BYTES (R73). -/
def execWriteBytes (space : Space) (start : Byte) (count : BitVec 9) (s : State) : Result :=
  match s.pc with
  | .resume .start =>
    .next (if badRange start count || badNvWrite space start count then raise .precondition s else s.setLabel .wb1)
  | .resume .wb1 => .next (memWrite space start (s.dataSlice 0 count.toNat) (finish 0) s)
  | _ => .fault .noResumption

/-- READ_PAGE (R74). -/
def execReadPage (space : Space) (page : Byte) (s : State) : Result :=
  match s.pc with
  | .resume .start => .next (if badPage space page then raise .precondition s else s.setLabel .rb1)
  | .resume .rb1 => .next (readAddress space (pageAddress (nibble page)) .rb2 s)
  | .resume .rb2 => .next (readData space 16 (fun xs s' => finish 0 (s'.storeData xs)) s)
  | _ => .fault .noResumption

end Sys2Proof.Machine
end

