-- ==== Sys2Proof/Machine/Translator.lean ====
section
/-! DEFINITION. The address translator's command (40_translator.md). -/

namespace Sys2Proof.Machine

/-- TRANSLATE (R69). -/
def execTranslate (space : Space) (cc : Byte) (s : State) : Result :=
  match s.pc with
  | .resume .start =>
    .next (if above15 cc then raise .precondition s else finish ((translate space (nibble cc)).setWidth 32) s)
  | _ => .fault .noResumption

end Sys2Proof.Machine
end

