-- ==== Sys2Proof/Machine/Dispatch.lean ====
section
/-! DEFINITION. One arm per command (R61): each calls that command's meaning. -/

namespace Sys2Proof.Machine

def exec (i : Instr) (s : State) : Host.Outcome State Fault Refusal :=
  match i with
  | .readBytes space start count => Sys2Proof.Machine.execReadBytes space start count s
  | .writeBytes space start count => Sys2Proof.Machine.execWriteBytes space start count s
  | .readPage space page => Sys2Proof.Machine.execReadPage space page s
  | .isPageWritable space page => Sys2Proof.Machine.execIsPageWritable space page s
  | .isPageErased space page => Sys2Proof.Machine.execIsPageErased space page s
  | .erasePage space page => Sys2Proof.Machine.execErasePage space page s
  | .programPage space page => Sys2Proof.Machine.execProgramPage space page s
  | .programPages space startPage count => Sys2Proof.Machine.execProgramPages space startPage count s
  | .resetDevice => Sys2Proof.Machine.execResetDevice s
  | .scanDevice cc => Sys2Proof.Machine.execScanDevice cc s
  | .scanDevices => Sys2Proof.Machine.execScanDevices s
  | .programControlCode count => Sys2Proof.Machine.execProgramControlCode count s
  | .setControlCode cc => Sys2Proof.Machine.execSetControlCode cc s
  | .setDevice count => Sys2Proof.Machine.execSetDevice count s
  | .translate space cc => Sys2Proof.Machine.execTranslate space cc s
  | .illegal word => Sys2Proof.Machine.execIllegal word s

end Sys2Proof.Machine
end

