-- ==== Sys2Proof/Machine/HostPort.lean ====
section
/-! DEFINITION. The host's side of the block: the register window (R18 to R26), controller reset (R113, R114), the lines
of a script (R66), and whose turn it is. -/

namespace Sys2Proof.Machine

/-- What stands at a word-aligned offset of the window (R18). -/
inductive WindowWord
  | cmdreg
  | status
  | result
  | cc
  | devsel
  | errinfo
  | reserved
  /-- The word that holds DATA[index .. index + 4). -/
  | data (index : Nat)
deriving DecidableEq, Repr

/-- The register map (R18); none for an offset that no host access may name (R19). -/
def windowWord (offset : Nat) : Option WindowWord :=
  if offset % 4 ≠ 0 ∨ 512 ≤ offset then none
  else if offset = 0x000 then some .cmdreg
  else if offset = 0x004 then some .status
  else if offset = 0x008 then some .result
  else if offset = 0x00C then some .cc
  else if offset = 0x010 then some .devsel
  else if offset = 0x014 then some .errinfo
  else if offset < 0x100 then some .reserved
  else some (.data (offset - 0x100))

/-- `STATUS.OVERRUN <- 1` (R20, R25). -/
def overrun (s : State) : State := s.setStatus { s.status with overrun := true }

/-- The word of DATA[index .. index + 4), little-endian (R19, R25). -/
def dataWord (s : State) (index : Nat) : Word :=
  bytesWord (s.data.read index) (s.data.read (index + 1)) (s.data.read (index + 2)) (s.data.read (index + 3))

/-- A host write of a word (R20, R21, R25, R26). -/
def hostWrite (offset : Nat) (w : Word) (s : State) : Result :=
  match windowWord offset with
  | none => .refused (.badHostAccess offset)
  | some .cmdreg => .next (if s.status.busy then overrun s else accept w s)
  | some (.data index) =>
    .next (if s.status.busy then overrun s else s.setData (s.data.writeList index (wordBytes w)))
  | some .status | some .result | some .cc | some .devsel | some .errinfo | some .reserved => .next s

/-- What the host's read returned. -/
def State.setHostRead (s : State) (w : Word) : State := { s with hostRead := w }

/-- A host read of a word (R18, R20 to R27). A read of DATA while BUSY returns a free value (R25, log 11). -/
def hostReadMove (offset : Nat) (s : State) : Result :=
  match windowWord offset with
  | none => .refused (.badHostAccess offset)
  | some .cmdreg => .next (s.setHostRead s.cmdreg)
  | some .status => .next (s.setHostRead s.status.word)
  | some .result => .next (s.setHostRead s.result)
  | some .cc => .next (s.setHostRead (s.cc.setWidth 32))
  | some .devsel => .next (s.setHostRead (s.devsel.setWidth 32))
  | some .errinfo => .next (s.setHostRead s.errinfo.word)
  | some .reserved => .next (s.setHostRead 0)
  | some (.data index) =>
    .next
      (if s.status.busy then { s with hostRead := freeWord s.draws, draws := s.draws + 4 }
       else s.setHostRead (dataWord s index))

/-- An unspecified DATA buffer: every byte a free value (R25, R114). -/
def freeData (d : Nat) : Memory := Memory.writeList [] 0 (freeBytes d 256)

/-- Controller reset (R113, R114), at any time: the running command is abandoned and no transaction is issued. DATA and
the locals are unspecified, so each is a free value (log 4, log 5). A transaction whose answer never comes is abandoned with
its command: the next one has an answer of its own (R106, log 6). A device index that is not in the table is no
construction the spec admits (R115). -/
def controllerReset (initDevice : Byte) (initCc : ControlCode) (s : State) : Result :=
  if initDevice.toNat < s.params.descriptors.length then
    .next
      { s with
        cmdreg := 0
        status := Status.zero
        result := 0
        errinfo := ErrInfo.zero
        cc := initCc
        devsel := initDevice
        data := freeData s.draws
        pc := .idle
        locals := freeLocals (s.draws + 256)
        draws := s.draws + 256 + freeLocalsSize
        writeAnswers := if s.issues .busWrite then dropNever s.writeAnswers else s.writeAnswers
        readAnswers := if s.issues .busRead then dropNever s.readAnswers else s.readAnswers
        answerDraws := s.answerDraws + 1 }
  else .refused (.noLaunch initDevice)

/-- A `.data` or `.string` line when BUSY = 0 (R66). -/
def directive (index : Nat) (bytes : List Byte) (s : State) : Result :=
  if index + bytes.length ≤ 256 then .next (s.setData (s.data.writeList index bytes))
  else .refused (.badDirective index bytes.length)

/-- One host move. -/
def hostMove (m : HostMove) (s : State) : Result :=
  match m with
  | .write offset w => hostWrite offset w s
  | .read offset => hostReadMove offset s
  | .reset initDevice initCc => controllerReset initDevice initCc s
  | .directive index bytes => directive index bytes s
  | .command w => .next (accept w s)

/-- A line of a script waits while BUSY = 1 (R66); the other moves do not. -/
def HostMove.waits : HostMove → Bool
  | .directive _ _ | .command _ => true
  | .write _ _ | .read _ | .reset _ _ => false

/-- Whose turn it is, and the state with that turn taken off the schedule. A script line that must wait leaves the turn
to the sequencer and stays first. -/
def takeTurn (s : State) : Option HostMove × State :=
  match s.schedule with
  | [] => (none, s)
  | .sequencer :: rest => (none, { s with schedule := rest })
  | .host m :: rest => if m.waits && s.status.busy then (none, s) else (some m, { s with schedule := rest })

/-- The state with the sequencer's turn next. -/
def State.yieldToSequencer (s : State) : State :=
  match s.schedule with
  | .host m :: rest => { s with schedule := .sequencer :: .host m :: rest }
  | [] | .sequencer :: _ => s

end Sys2Proof.Machine
end

