-- ==== Sys2Proof/Machine/Step.lean ====
section
/-! DEFINITION. One step of the machine: the host's next move, or one step of the sequencer (R34). -/

namespace Sys2Proof.Machine

/-- One step of the sequencer: it runs the command in CMDREG at the pc; IDLE does nothing (R32, R34). -/
def sequencerStep (s : State) : Host.Outcome State Fault Refusal :=
  match s.pc with
  | .idle => .next s
  | .resume _ => exec s.command s

/-- One step: the turn's taker moves (R17, R52). -/
def step (s : State) : Host.Outcome State Fault Refusal :=
  match takeTurn s with
  | (some m, s') => hostMove m s'
  | (none, s') => sequencerStep s'

/-- The state just after the host wrote the command word to CMDREG (R97), with the sequencer's turn next: the block
fetches nothing (R55), the command it runs is the word in CMDREG. -/
def State.withFetchWord (s : State) (nbits w : Nat) : State := accept (tableWord nbits w) s.yieldToSequencer

end Sys2Proof.Machine
end

