-- ==== Sys2Proof/Safety.lean ====
section
/-! DEFINITION. What a sound state and a safe run are, in the terms the statements use. -/

namespace Sys2Proof.Safety

open Sys2Proof.Machine

/-- The labels a command can stand at, with the operand checks that let it get there (R32, R101). -/
def legalLabel : Instr → Label → Bool
  | _, .start => true
  | .readBytes _ start count, .rb1 | .readBytes _ start count, .rb2 => !badRange start count
  | .writeBytes space start count, .wb1 => !badRange start count && !badNvWrite space start count
  | .readPage space page, .rb1 | .readPage space page, .rb2 => !badPage space page
  | .isPageErased space page, .rb1 | .isPageErased space page, .rb2 => !badPage space page
  | .erasePage space page, .erase _ => !badPage space page
  | .programPage space page, .page _ => !badPage space page
  | .programPages space startPage count, .pages _ => !badPages space startPage count
  | .resetDevice, .x1Wb1 | .resetDevice, .x2 => true
  | .scanDevice cc, .s1 => !above15 cc
  | .scanDevices, .scan => true
  | .programControlCode count, .pages _ => count == 4#9
  | _, _ => false

/-- PSTATE while ErasePage stands at a label (R79, R83). -/
def erasePState : EraseLabel → PState
  | .e1Rb1 | .e1Rb2 => .check
  | .e2Wb1 | .e3 | .e4D1 | .e5Rb1 | .e5Rb2 => .erasing

/-- PSTATE while ProgramPage stands at a label (R80, R83). -/
def pagePState : PageLabel → PState
  | .p1Rb1 | .p1Rb2 => .check
  | .p2 l => erasePState l
  | .p3Wb1 | .p4 | .p5Rb1 | .p5Rb2 => .programming

/-- PSTATE while a command stands at a label: NONE outside the page procedures (R22). -/
def labelPState : Label → PState
  | .start | .rb1 | .rb2 | .wb1 | .x1Wb1 | .x2 | .s1 | .scan => .none
  | .erase l => erasePState l
  | .page l => pagePState l
  | .pages l => pagePState l

/-- The page procedure a running command is in: its space, its page and its 16-byte target (R79, R80, R81, R94); no
target for ERASE_PAGE. -/
structure PageJob where
  space : Space
  page : Page
  target : List Byte
deriving DecidableEq, Repr

/-- The page procedure of the command in CMDREG, as its operands, DATA and the locals give it. -/
def pageJob (s : State) : Option PageJob :=
  match s.command with
  | .erasePage space page => some ⟨space, nibble page, []⟩
  | .programPage space page => some ⟨space, nibble page, s.dataSlice 0 16⟩
  | .programPages space _ _ => some ⟨space, s.locals.p, s.dataSlice (16 * s.locals.i.toNat) 16⟩
  | .programControlCode _ => some ⟨.nvm, s.locals.p, (s.locals.img.drop (16 * s.locals.i.toNat)).take 16⟩
  | _ => none

/-- The first page and the number of pages of the command's ProgramPages (R89, R94). -/
def pageRange (s : State) : Option (Nat × Nat) :=
  match s.command with
  | .programPages _ startPage count => some (startPage.toNat, count.toNat / 16)
  | .programControlCode _ => s.desc?.map (fun d => (d.controlCodeAddress.toNat / 16, 1))
  | _ => none

/-- Whether a label belongs to a page procedure. -/
def inPageProcedure : Label → Bool
  | .erase _ | .page _ | .pages _ => true
  | _ => false

/-- The invariant of the block: what every step keeps. -/
structure Sound (s : State) : Prop where
  /-- The descriptor table is well formed (R30). -/
  params_wf : s.params.wf
  /-- DEVSEL is an index of the table (R114, R96). -/
  devsel_lt : s.devsel.toNat < s.params.descriptors.length
  /-- DATA keeps its canonical form. -/
  data_wf : s.data.wf
  /-- The pc is IDLE exactly when BUSY = 0 (R32). -/
  idle_iff : s.pc = .idle ↔ s.status.busy = false
  /-- A busy command has not ended: DONE = 0, ERR = 0, ERRINFO = 0 (R97 to R99). -/
  busy_clear : s.status.busy = true → s.status.done = false ∧ s.status.err = .none ∧ s.errinfo = ErrInfo.zero
  /-- The pc is a label of the command in CMDREG, whose operands have passed its checks (R32, R101). -/
  label_legal : ∀ l, s.pc = .resume l → legalLabel s.command l = true
  /-- PSTATE is that of the label (R83). -/
  pstate_label : ∀ l, s.pc = .resume l → s.status.pstate = labelPState l
  /-- PPAGE and PSPACE name the page procedure in progress (R76). -/
  page_named : ∀ l, s.pc = .resume l → inPageProcedure l = true →
    ∃ j, pageJob s = some j ∧ s.status.ppage = j.page ∧ s.status.pspace = j.space
  /-- The page in progress is one of the command's pages (R81). -/
  page_in_range : ∀ l, s.pc = .resume (.pages l) →
    ∃ r, pageRange s = some r ∧ s.locals.i.toNat < r.2 ∧ s.locals.p.toNat = r.1 + s.locals.i.toNat
  /-- RESULT is 0 from acceptance on (R97). -/
  start_result : s.pc = .resume .start → s.result = 0
  /-- RESULT holds the bitmaps of the pages before the one in progress (R82). -/
  pages_result : ∀ l, s.pc = .resume (.pages l) → s.result = resultBitmaps s.locals.programmed s.locals.skipped

/-- The two events of a page read that returned `xs` (R70). -/
def pageReadEvents (s : State) (j : PageJob) (xs : List Byte) : List Event :=
  [.write (translate j.space s.cc) [pageAddress j.page] true, .read (translate j.space s.cc) 16 (.bytes xs)]

/-- The erase trigger write (R77, R79 E2). -/
def triggerEvent (s : State) (d : DeviceDescriptor) (j : PageJob) : Event :=
  .write (translate .register s.cc) [d.eraseTriggerAddress, triggerByte d j.space j.page] true

/-- What the trace ends with while ErasePage stands at a label (R79, R84). -/
def eraseHistory (s : State) (d : DeviceDescriptor) (j : PageJob) : EraseLabel → Prop
  | .e1Rb1 => True
  | .e1Rb2 => [Event.write (translate j.space s.cc) [pageAddress j.page] true] <:+ s.trace
  | .e2Wb1 => ∃ xs, xs.length = 16 ∧ allZero xs = false ∧ pageReadEvents s j xs <:+ s.trace
  | .e3 => ∃ xs, xs.length = 16 ∧ allZero xs = false ∧ pageReadEvents s j xs ++ [triggerEvent s d j] <:+ s.trace
  | .e4D1 => s.params.errataWorkaround = true ∧ [triggerEvent s d j, .wait .erase] <:+ s.trace
  | .e5Rb1 =>
    if s.params.errataWorkaround then
      ∃ ok, [triggerEvent s d j, .wait .erase,
        .write (translate .register s.cc) (dummyBytes s.params.errataDummyPayload) ok] <:+ s.trace
    else [triggerEvent s d j, .wait .erase] <:+ s.trace
  | .e5Rb2 => [Event.write (translate j.space s.cc) [pageAddress j.page] true] <:+ s.trace

/-- What the trace ends with while ProgramPage stands at a label (R80, R84). -/
def pageHistory (s : State) (d : DeviceDescriptor) (j : PageJob) : PageLabel → Prop
  | .p1Rb1 => True
  | .p1Rb2 => [Event.write (translate j.space s.cc) [pageAddress j.page] true] <:+ s.trace
  | .p2 l => eraseHistory s d j l
  | .p3Wb1 => ∃ xs, xs.length = 16 ∧ allZero xs = true ∧ pageReadEvents s j xs <:+ s.trace
  | .p4 => ∃ xs, xs.length = 16 ∧ allZero xs = true ∧
      pageReadEvents s j xs ++ [.write (translate j.space s.cc) (pageAddress j.page :: j.target) true] <:+ s.trace
  | .p5Rb1 =>
    [.write (translate j.space s.cc) (pageAddress j.page :: j.target) true, .wait .program] <:+ s.trace
  | .p5Rb2 => [Event.write (translate j.space s.cc) [pageAddress j.page] true] <:+ s.trace

/-- The protocol's history (R84): inside a page procedure the page is writable, and the trace ends with the transactions
the procedure must have made before it came to stand where it does. -/
def History (s : State) : Prop :=
  ∀ d j, s.desc? = some d → pageJob s = some j →
    match s.pc with
    | .resume (.erase l) => pageWritable d j.space j.page = true ∧ eraseHistory s d j l
    | .resume (.page l) => pageWritable d j.space j.page = true ∧ pageHistory s d j l
    | .resume (.pages l) => pageWritable d j.space j.page = true ∧ pageHistory s d j l
    | _ => True

/-- The bitmap of skipped pages is exact (R81, R82): it holds the pages of the range before the one in progress that are
not writable, and no other. -/
def SkippedExact (s : State) : Prop :=
  ∀ d j r l, s.desc? = some d → pageJob s = some j → pageRange s = some r → s.pc = .resume (.pages l) →
    ∀ k : Page, s.locals.skipped.getLsbD k.toNat =
      (decide (r.1 ≤ k.toNat) && decide (k.toNat < s.locals.p.toNat) && !pageWritable d j.space k)

/-- The errors a command may raise (R100, column "raised by"). -/
def mayRaise : Instr → ErrCode → Bool
  | .illegal _, c => c == .illegalCommand
  | .readBytes _ _ _, c | .writeBytes _ _ _, c | .readPage _ _, c | .isPageErased _ _, c =>
    c == .preconditionError || c == .transportError
  | .isPageWritable _ _, c | .scanDevice _, c | .setControlCode _, c | .translate _ _, c => c == .preconditionError
  | .erasePage _ _, c =>
    c == .preconditionError || c == .readOnlyPageError || c == .transportError || c == .eraseVerificationError
  | .programPage _ _, c | .programPages _ _ _, c =>
    c == .preconditionError || c == .readOnlyPageError || c == .transportError || c == .eraseVerificationError ||
      c == .programVerificationError
  | .resetDevice, c => c == .transportError
  | .scanDevices, _ => false
  | .programControlCode _, c =>
    c == .invalidSpecError || c == .readOnlyPageError || c == .transportError || c == .eraseVerificationError ||
      c == .programVerificationError
  | .setDevice _, c => c == .preconditionError || c == .unknownDeviceError

/-- The errors decided before any bus activity, in the command's first step (R101). -/
def firstStepError : ErrCode → Bool
  | .illegalCommand | .preconditionError | .invalidSpecError | .unknownDeviceError => true
  | _ => false

/-- The PSTATE a sequencer step may show after another (R83): a step shows the last of the moves it makes. -/
def visibleMove : PState → PState → Bool
  | .none, .none | .none, .check | .none, .failed => true
  | .check, .check | .check, .clean | .check, .erasing | .check, .programming | .check, .failed => true
  | .erasing, .erasing | .erasing, .erased | .erasing, .programming | .erasing, .failed => true
  | .programming, .programming | .programming, .verified | .programming, .check | .programming, .failed => true
  | _, _ => false

/-- `n` steps of the running command `i`, stopping at the first fault or refusal. -/
def execSteps (i : Instr) : Nat → State → Result
  | 0, s => .next s
  | n + 1, s =>
    match exec i s with
    | .next t => execSteps i n t
    | .fault f => .fault f
    | .refused r => .refused r

/-- `n` steps of the machine, stopping at the first fault or refusal. -/
def steps : Nat → State → Result
  | 0, s => .next s
  | n + 1, s =>
    match step s with
    | .next t => steps n t
    | .fault f => .fault f
    | .refused r => .refused r

/-- A safe machine: no run from the state ends in a fault. -/
def NeverFaults (s : State) : Prop := ∀ n f, steps n s ≠ .fault f

/-- The transport never answers the transaction that the sequencer issues next (R106). -/
def Hung (s : State) : Prop :=
  (s.issues .busWrite = true ∧ takeWriteAnswer s = none) ∨ (s.issues .busRead = true ∧ takeReadAnswer s = none)

/-- How a command that runs ErasePage names that procedure's labels (R32, R87, R80, R81). -/
def EraseNaming (lbl : EraseLabel → Label) : Prop :=
  lbl = .erase ∨ lbl = (fun l => .page (.p2 l)) ∨ lbl = (fun l => .pages (.p2 l))

/-- How a command that runs ProgramPage names that procedure's labels (R32, R88, R81). -/
def PageNaming (lbl : PageLabel → Label) : Prop := lbl = .page ∨ lbl = .pages

/-- The label of the data read that follows an address write of ErasePage (R70, R79). -/
def eraseRead : EraseLabel → Option EraseLabel
  | .e1Rb1 => some .e1Rb2
  | .e5Rb1 => some .e5Rb2
  | .e1Rb2 | .e2Wb1 | .e3 | .e4D1 | .e5Rb2 => none

/-- The label of the data read that follows an address write of ProgramPage (R70, R80). -/
def pageRead : PageLabel → Option PageLabel
  | .p1Rb1 => some .p1Rb2
  | .p5Rb1 => some .p5Rb2
  | .p2 l => (eraseRead l).map .p2
  | .p1Rb2 | .p3Wb1 | .p4 | .p5Rb2 => none

/-- The label of the data read that follows an address write of a page procedure, in its command's naming (R70). -/
def readAfter : Label → Option Label
  | .erase l => (eraseRead l).map .erase
  | .page l => (pageRead l).map .page
  | .pages l => (pageRead l).map .pages
  | .start | .rb1 | .rb2 | .wb1 | .x1Wb1 | .x2 | .s1 | .scan => none

/-- ERRINFO of a TransportError inside a page procedure (R24, R99). -/
def pageTransportInfo (a7 : Addr7) (isRead lengthMismatch : Bool) (p : Page) : ErrInfo where
  addr7 := a7
  dir := isRead
  page := p
  pageValid := true
  lengthMismatch := lengthMismatch

end Sys2Proof.Safety
end

