-- ==== Sys2Proof/Certificates/Slice0/Obligations.lean ====
section
/-! DEFINITION. The statements for the provers.

The pseudocode's primitives are named as R12 to R14 name them: `busWrite`, `busRead` and `busWait` (R42 to R44), `finish`
(R98), `raise` (R99), `accept` (R97). Statements of their own say what each of them does, and a command's statement says
which of them it performs, for EVERY answer of the transport: an answer is taken from the script or is a free value, and
no statement rests on a free value.

A whole command is several steps of the sequencer (R34), so a command's statements stand at its labels: where it is
accepted, at its transactions, and where it ends. -/

open Sys2Proof Sys2Proof.Machine Sys2Proof.Safety

/-! ### Encoding -/

/-- R58 to R62: decoding the word of a well-formed command gives the command back, from the word and from its bytes. -/
def Obligations.DecodeUndoesEncode : Prop :=
  ∀ i : Instr, WellFormed i = true → decodeWord (encode i) = i ∧ decode (wordBytes (encode i)) = .ok i

/-- R62: every 32-bit word decodes to a well-formed command, whose word it is. -/
def Obligations.EncodeUndoesDecode : Prop :=
  ∀ w : Word, WellFormed (decodeWord w) = true ∧ encode (decodeWord w) = w

/-- R63, R61: the illegal words are exactly these, named by their fields. -/
def Obligations.IllegalWordsExactly : Prop :=
  ∀ w : Word, decodeWord w = .illegal w ↔
    wordOp w = 0 ∨ wordSbz0 w ≠ 0 ∨ wordSbz1 w ≠ 0 ∨
    (wordOp w ∈ [1, 2, 3, 4, 5, 6, 7, 8, 15] ∧ wordSpace w = 3) ∨
    (wordOp w ∈ [9, 10, 11, 12, 13, 14] ∧ wordSpace w ≠ 0) ∨
    (wordOp w ∈ [9, 11, 12, 14] ∧ wordArg w ≠ 0) ∨
    (wordOp w ∈ [3, 4, 5, 6, 7, 9, 10, 11, 13, 15] ∧ wordCount w ≠ 0)

/-- R64's four examples, and one word of each other opcode, decode to the commands they stand for (R58, R59, R61). -/
def Obligations.SampleWordsDecode : Prop :=
  decodeWord 0x00102011 = .readBytes .nvm 0x20 16 ∧ decodeWord 0x00200228 = .programPages .eeprom 2 32 ∧
  decodeWord 0x0000030A = .scanDevice 3 ∧ decodeWord 0x00000009 = .resetDevice ∧
  decodeWord 0x00021002 = .writeBytes .register 0x10 2 ∧ decodeWord 0x00000323 = .readPage .eeprom 3 ∧
  decodeWord 0x00000F14 = .isPageWritable .nvm 15 ∧ decodeWord 0x00000015 = .isPageErased .nvm 0 ∧
  decodeWord 0x00000216 = .erasePage .nvm 2 ∧ decodeWord 0x00000217 = .programPage .nvm 2 ∧
  decodeWord 0x0000000B = .scanDevices ∧ decodeWord 0x0004000C = .programControlCode 4 ∧
  decodeWord 0x0000040D = .setControlCode 4 ∧ decodeWord 0x0008000E = .setDevice 8 ∧
  decodeWord 0x0000011F = .translate .nvm 1

/-! ### The translator -/

/-- R68, the translator laws. -/
def Obligations.TranslatorLaws : Prop :=
  (∀ (sp : Space) (cc : ControlCode),
    (Machine.translate sp cc).toNat / 8 = cc.toNat ∧ (Machine.translate sp cc).toNat % 8 = (sub sp).toNat ∧
    8 * cc.toNat ≤ (Machine.translate sp cc).toNat ∧ (Machine.translate sp cc).toNat ≤ 8 * cc.toNat + 7 ∧
    (Machine.translate sp cc).toNat ≤ 0x7B) ∧
  (∀ (sp sp' : Space) (cc cc' : ControlCode), Machine.translate sp cc = Machine.translate sp' cc' → sp = sp' ∧ cc = cc') ∧
  Machine.translate .eeprom 15 = 0x7B

/-- R69: TRANSLATE reports `(cc << 3) | sub(space)` for a code 0..15 and raises PreconditionError above 15. Nothing else
changes: the next state is the finished or the raised state itself. -/
def Obligations.TranslateReportsAddress : Prop :=
  ∀ (sp : Space) (cc : Byte) (s : State), s.pc = .resume .start →
    (cc.toNat ≤ 15 →
      exec (.translate sp cc) s = .next (finish (BitVec.ofNat 32 (cc.toNat * 8 + (sub sp).toNat)) s)) ∧
    (15 < cc.toNat → exec (.translate sp cc) s = .next (raise .precondition s))

/-! ### The command lifecycle -/

/-- R97: what a host write to CMDREG does when BUSY = 0, field by field, and that while BUSY = 1 no host move but controller
reset changes the block except OVERRUN. The model's choices beside it: the locals become free values (log 5), the host moves
when its turn stands first in `schedule` (log 9), and a script line (R66) that must wait for BUSY = 0 leaves the turn to the
sequencer (log 17). -/
def Obligations.AcceptanceStartsTheCommand : Prop :=
  (∀ (w : Word) (s : State) (rest : List Turn), s.schedule = .host (.write 0x000 w) :: rest → s.status.busy = false →
    ∃ l n, step s = .next
      { s with
        schedule := rest, cmdreg := w, result := 0, pc := .resume .start, locals := l, draws := n,
        status := { busy := true, done := false, overrun := s.status.overrun, err := .none, pstate := .none, ppage := 0,
                    pspace := .register },
        errinfo := { addr7 := 0, dir := false, page := 0, pageValid := false, lengthMismatch := false } }) ∧
  (∀ (m : HostMove) (s : State) (rest : List Turn), s.schedule = .host m :: rest → s.status.busy = true →
    (∀ d cc, m ≠ .reset d cc) →
    (∀ t, m.waits = false → step s = .next t →
      ∃ o n r, t = { s with schedule := rest, status := { s.status with overrun := o }, draws := n, hostRead := r }) ∧
    (m.waits = true → step s = sequencerStep s))

/-- R98: `finish(r)`. STATUS.ERR and every other field stay as they were. -/
def Obligations.FinishEndsTheCommand : Prop :=
  ∀ (r : Word) (s : State),
    finish r s = { s with result := r, status := { s.status with busy := false, done := true }, pc := .idle }

/-- R99: `raise E(info)`. RESULT, DATA and the trace stay as they were. -/
def Obligations.RaiseRecordsTheError : Prop :=
  ∀ (e : Error) (s : State),
    (raise e s).status.err = e.code ∧ (raise e s).status.busy = false ∧ (raise e s).status.done = true ∧
    (raise e s).pc = .idle ∧
    ((raise e s).status.pstate = if s.status.pstate = .none then .none else .failed) ∧
    (∀ a r m, e = .transport a r m →
      (raise e s).errinfo.addr7 = a ∧ (raise e s).errinfo.dir = r ∧ (raise e s).errinfo.lengthMismatch = m) ∧
    ((∀ a r m, e ≠ .transport a r m) →
      (raise e s).errinfo.addr7 = 0 ∧ (raise e s).errinfo.dir = false ∧ (raise e s).errinfo.lengthMismatch = false) ∧
    (∀ p, e = .readOnlyPage p ∨ e = .eraseVerification p ∨ e = .programVerification p →
      (raise e s).errinfo.page = p ∧ (raise e s).errinfo.pageValid = true) ∧
    ((∀ p, e ≠ .readOnlyPage p ∧ e ≠ .eraseVerification p ∧ e ≠ .programVerification p) →
      (s.status.pstate ≠ .none → (raise e s).errinfo.page = s.status.ppage ∧ (raise e s).errinfo.pageValid = true) ∧
      (s.status.pstate = .none →
        (raise e s).errinfo.page = s.errinfo.page ∧ (raise e s).errinfo.pageValid = s.errinfo.pageValid)) ∧
    (∃ st ei, raise e s = { s with status := st, errinfo := ei, pc := .idle } ∧
      st.overrun = s.status.overrun ∧ st.ppage = s.status.ppage ∧ st.pspace = s.status.pspace)

/-- R100: the numeric error codes, and what each error is reported as. -/
def Obligations.ErrorCodesAreR100s : Prop :=
  ErrCode.none.code = 0 ∧ (∀ a r m, (Error.transport a r m).code.code = 1) ∧ (∀ p, (Error.readOnlyPage p).code.code = 2) ∧
  (∀ p, (Error.eraseVerification p).code.code = 3) ∧ (∀ p, (Error.programVerification p).code.code = 4) ∧
  Error.invalidSpec.code.code = 5 ∧ Error.unknownDevice.code.code = 6 ∧ Error.precondition.code.code = 7 ∧
  Error.illegalCommand.code.code = 8 ∧ (∀ c : ErrCode, c.code.toNat ≤ 8)

/-- R100, column "raised by": in a sound state a command that newly reports an error reports one the table lists for it;
PROGRAM_PAGES and PROGRAM_CONTROL_CODE report ReadOnlyPageError only under RO_POLICY = Fail. -/
def Obligations.CommandsRaiseOnlyTheirErrors : Prop :=
  ∀ s t : State, Sound s → History s → s.pc ≠ .idle → exec s.command s = .next t → t.status.err ≠ .none →
    mayRaise s.command t.status.err = true ∧
    (t.status.err = .readOnlyPageError → (∀ sp p, s.command ≠ .erasePage sp p ∧ s.command ≠ .programPage sp p) →
      s.params.roPolicy = .fail)

/-- R34, R45, R101: a step of a command records at most one event, and its first step records none. IllegalCommand,
PreconditionError, InvalidSpecError and UnknownDeviceError are raised in the first step only, so before any bus activity. -/
def Obligations.EarlyErrorsTouchNoBus : Prop :=
  ∀ (i : Instr) (s t : State), exec i s = .next t →
    (t.trace = s.trace ∨ ∃ e, t.trace = s.trace ++ [e]) ∧
    (s.pc = .resume .start → t.trace = s.trace) ∧
    (s.status.err = .none → firstStepError t.status.err = true → s.pc = .resume .start)

/-- R104, R24: when a step of a command in a sound state reports TransportError, the failing transaction is the last event
of the trace, and ERRINFO names its address, its direction and whether only its length was wrong. -/
def Obligations.TransportErrorNamesTheTransaction : Prop :=
  ∀ s t : State, Sound s → s.pc ≠ .idle → exec s.command s = .next t → t.status.err = .transportError →
    (∃ bytes, t.trace = s.trace ++ [.write t.errinfo.addr7 bytes false] ∧ t.errinfo.dir = false ∧
      t.errinfo.lengthMismatch = false) ∨
    (∃ n, t.trace = s.trace ++ [.read t.errinfo.addr7 n .fail] ∧ t.errinfo.dir = true ∧
      t.errinfo.lengthMismatch = false) ∨
    (∃ n xs, t.trace = s.trace ++ [.read t.errinfo.addr7 n (.bytes xs)] ∧ xs.length ≠ n ∧ t.errinfo.dir = true ∧
      t.errinfo.lengthMismatch = true)

/-- R62, R63: the reserved row's command raises IllegalCommand at its first step, and changes nothing else. -/
def Obligations.IllegalCommandIsRaised : Prop :=
  ∀ (w : Word) (s : State), s.pc = .resume .start → exec (.illegal w) s = .next (raise .illegalCommand s)

/-! ### The sequencer -/

/-- When the turn is the sequencer's (no host move is listed, or the turn says so) and the pc is not IDLE, a step of the
machine is `exec` of the command decoded from CMDREG, at the state without that turn; a script line that waits for BUSY = 0
leaves the turn to the sequencer and stays listed. The turns are the model's (log 9, log 17). -/
def Obligations.StepRunsTheDecodedCommand : Prop :=
  ∀ (s : State) (i : Instr) (l : Label), decodeWord s.cmdreg = i → s.pc = .resume l →
    (s.schedule = [] → step s = exec i s) ∧
    (∀ rest, s.schedule = .sequencer :: rest → step s = exec i { s with schedule := rest }) ∧
    (∀ m rest, s.schedule = .host m :: rest → m.waits = true → s.status.busy = true → step s = exec i s)

/-- R106, R41: while the transport does not answer the transaction that the sequencer issues, be it a write or a read, the
command's step changes nothing; and every step of the machine leaves it hung, at the same label of the same command, BUSY
and with no new event, unless the turn is a controller reset. That a hung step leaves the state as it is, is the model's
rendering (log 6). -/
def Obligations.HungTransportChangesNothing : Prop :=
  ∀ s : State, Sound s → Hung s →
    exec s.command s = .next s ∧
    (∀ t, step s = .next t →
      (Hung t ∧ t.pc = s.pc ∧ t.cmdreg = s.cmdreg ∧ t.trace = s.trace ∧ t.status.busy = true ∧ t.status.done = false) ∨
      ∃ d cc rest, s.schedule = .host (.reset d cc) :: rest)

/-- R20, R25, R27: what no command writes. A command leaves the parameters, CMDREG, OVERRUN and the inputs of the host as
they are; only SET_CONTROL_CODE writes CC, only SET_DEVICE writes DEVSEL, and only READ_BYTES, READ_PAGE and SCAN_DEVICES
write DATA. -/
def Obligations.CommandsLeaveTheSession : Prop :=
  ∀ (i : Instr) (s t : State), exec i s = .next t →
    t.params = s.params ∧ t.cmdreg = s.cmdreg ∧ t.status.overrun = s.status.overrun ∧ t.schedule = s.schedule ∧
    t.hostRead = s.hostRead ∧ t.draws = s.draws ∧
    ((∀ cc, i ≠ .setControlCode cc) → t.cc = s.cc) ∧
    ((∀ n, i ≠ .setDevice n) → t.devsel = s.devsel) ∧
    ((∀ sp a n, i ≠ .readBytes sp a n) → (∀ sp p, i ≠ .readPage sp p) → i ≠ .scanDevices → t.data = s.data)

/-- R32, R98, R99: a step that ends a command leaves BUSY = 0 and DONE = 1; one that does not leaves both. -/
def Obligations.EndOfCommandIsReported : Prop :=
  ∀ (i : Instr) (s t : State), exec i s = .next t →
    (t.pc = .idle → t.status.busy = false ∧ t.status.done = true) ∧
    (t.pc ≠ .idle → t.status.busy = s.status.busy ∧ t.status.done = s.status.done ∧ t.status.err = s.status.err)

/-- R38, R28, R67: every transaction a command issues goes to a Register, NVM or EEPROM address; but for the scans, which
probe other codes, it is an address of the control code in CC. -/
def Obligations.TransactionsGoToTheSessionDevice : Prop :=
  ∀ (i : Instr) (s t : State) (e : Event), exec i s = .next t → t.trace = s.trace ++ [e] →
    ∀ a7 : Addr7, (∃ bytes ok, e = .write a7 bytes ok) ∨ (∃ n r, e = .read a7 n r) →
      (a7.toNat % 8 = 0 ∨ a7.toNat % 8 = 2 ∨ a7.toNat % 8 = 3) ∧
      ((∀ cc, i ≠ .scanDevice cc) → i ≠ .scanDevices → a7.toNat / 8 = s.cc.toNat)

/-! ### The bus primitives -/

/-- R41, R42, R43: taking an answer moves nothing but the script of answers and the counter of answers, a scripted answer,
be it Fail or a byte list, is the one taken, and a script that never answers leaves the primitive unanswered. The script is
the model's (log 6), and so is the clipping of a reply to R41's 256 bytes (log 25). -/
def Obligations.AnswersComeFromTheTransport : Prop :=
  (∀ (s t : State) (ok : Bool), takeWriteAnswer s = some (ok, t) →
    ∃ ws n, t = { s with writeAnswers := ws, answerDraws := n }) ∧
  (∀ (s t : State) (r : ReadReply), takeReadAnswer s = some (r, t) →
    (∃ rs n, t = { s with readAnswers := rs, answerDraws := n }) ∧ (∀ xs, r = .bytes xs → xs.length ≤ 256)) ∧
  (∀ (s : State) (ok : Bool) (rest : List (Option Bool)), s.writeAnswers = some ok :: rest →
    takeWriteAnswer s = some (ok, { s with writeAnswers := rest })) ∧
  (∀ (s : State) (rest : List (Option ReadReply)), s.readAnswers = some .fail :: rest →
    takeReadAnswer s = some (.fail, { s with readAnswers := rest })) ∧
  (∀ (s : State) (xs : List Byte) (rest : List (Option ReadReply)), s.readAnswers = some (.bytes xs) :: rest →
    xs.length ≤ 256 → takeReadAnswer s = some (.bytes xs, { s with readAnswers := rest })) ∧
  (∀ (s : State) (rest : List (Option Bool)), s.writeAnswers = none :: rest → takeWriteAnswer s = none) ∧
  (∀ (s : State) (rest : List (Option ReadReply)), s.readAnswers = none :: rest → takeReadAnswer s = none)

/-- R42 to R44: what each primitive records. A write beyond MAX_WRITE is recorded as answered false (the model's reading of
D15, log 15). -/
def Obligations.PrimitivesRecordTheirEvents : Prop :=
  (∀ (a7 : Addr7) (bytes : List Byte) (s s' : State) (ok : Bool), takeWriteAnswer s = some (ok, s') →
    (bytes.length ≤ s.params.maxWrite →
      busWrite a7 bytes s = some (ok, { s' with trace := s.trace ++ [.write a7 bytes ok] })) ∧
    (s.params.maxWrite < bytes.length →
      busWrite a7 bytes s = some (false, { s' with trace := s.trace ++ [.write a7 bytes false] }))) ∧
  (∀ (a7 : Addr7) (n : Nat) (s s' : State) (r : ReadReply), takeReadAnswer s = some (r, s') →
    busRead a7 n s = some (r, { s' with trace := s.trace ++ [.read a7 n r] })) ∧
  (∀ (a7 : Addr7) (bytes : List Byte) (s : State), takeWriteAnswer s = none → busWrite a7 bytes s = none) ∧
  (∀ (a7 : Addr7) (n : Nat) (s : State), takeReadAnswer s = none → busRead a7 n s = none) ∧
  (∀ (k : WaitKind) (s : State), busWait k s = { s with trace := s.trace ++ [.wait k] })

/-! ### Raw access -/

/-- R72, R73, R74, R86, R47, R101: the first step of READ_BYTES, WRITE_BYTES, READ_PAGE and IS_PAGE_ERASED:
PreconditionError for an operand out of range, else on to the first transaction. -/
def Obligations.RawCommandsCheckOperands : Prop :=
  ∀ (sp : Space) (a p : Byte) (n : BitVec 9) (s : State), s.pc = .resume .start →
    (n.toNat = 0 ∨ 256 < a.toNat + n.toNat → exec (.readBytes sp a n) s = .next (raise .precondition s)) ∧
    (0 < n.toNat → a.toNat + n.toNat ≤ 256 → exec (.readBytes sp a n) s = .next { s with pc := .resume .rb1 }) ∧
    (n.toNat = 0 ∨ 256 < a.toNat + n.toNat ∨ (sp ≠ .register ∧ (a.toNat % 16 ≠ 0 ∨ n.toNat ≠ 16)) →
      exec (.writeBytes sp a n) s = .next (raise .precondition s)) ∧
    (0 < n.toNat → a.toNat + n.toNat ≤ 256 → (sp ≠ .register → a.toNat % 16 = 0 ∧ n.toNat = 16) →
      exec (.writeBytes sp a n) s = .next { s with pc := .resume .wb1 }) ∧
    (sp = .register ∨ 15 < p.toNat →
      exec (.readPage sp p) s = .next (raise .precondition s) ∧
      exec (.isPageErased sp p) s = .next (raise .precondition s)) ∧
    (sp ≠ .register → p.toNat ≤ 15 →
      exec (.readPage sp p) s = .next { s with pc := .resume .rb1 } ∧
      exec (.isPageErased sp p) s = .next { s with pc := .resume .rb1 })

/-- R70, RB1 of READ_BYTES, READ_PAGE and IS_PAGE_ERASED, and of every read-back of the page procedures (R79 E1 and E5, R80
P1 and P5): the write of the one start-address byte to the space's address under CC. A true answer goes on to RB2; a false
answer raises TransportError and RB2 is not issued, inside a page procedure with PAGE and PAGE_VALID (R24). -/
def Obligations.ReadCommandsWriteTheAddress : Prop :=
  (∀ (i : Instr) (sp : Space) (a : Byte) (s t : State) (ok : Bool), s.pc = .resume .rb1 →
    ((∃ n, i = .readBytes sp a n) ∨ (∃ p, p.toNat ≤ 15 ∧ a.toNat = 16 * p.toNat ∧
      (i = .readPage sp p ∨ i = .isPageErased sp p))) →
    busWrite (Machine.translate sp s.cc) [a] s = some (ok, t) →
    exec i s = .next
      (if ok then { t with pc := .resume .rb2 } else raise (.transport (Machine.translate sp s.cc) false false) t)) ∧
  (∀ (s t : State) (l l' : Label) (j : PageJob) (ok : Bool), Sound s → s.pc = .resume l → readAfter l = some l' →
    pageJob s = some j → busWrite (Machine.translate j.space s.cc) [pageAddress j.page] s = some (ok, t) →
    exec s.command s = .next
      (if ok then { t with pc := .resume l' } else raise (.transport (Machine.translate j.space s.cc) false false) t) ∧
    (raise (.transport (Machine.translate j.space s.cc) false false) t).errinfo =
      pageTransportInfo (Machine.translate j.space s.cc) false false j.page)

/-- R70, RB2 of READ_BYTES, READ_PAGE and IS_PAGE_ERASED, and of every read-back of the page procedures (R79 E1 and E5, R80
P1 and P5): a failing read, or one of another length, raises TransportError with DATA as it was, inside a page procedure
with PAGE and PAGE_VALID (R24). -/
def Obligations.ReadCommandsReportBadReads : Prop :=
  (∀ (i : Instr) (sp : Space) (n : Nat) (s t : State), s.pc = .resume .rb2 →
    ((∃ a c, i = .readBytes sp a c ∧ n = c.toNat) ∨ (∃ p, n = 16 ∧ (i = .readPage sp p ∨ i = .isPageErased sp p))) →
    (busRead (Machine.translate sp s.cc) n s = some (.fail, t) →
      exec i s = .next (raise (.transport (Machine.translate sp s.cc) true false) t) ∧ t.data = s.data) ∧
    (∀ xs, xs.length ≠ n → busRead (Machine.translate sp s.cc) n s = some (.bytes xs, t) →
      exec i s = .next (raise (.transport (Machine.translate sp s.cc) true true) t) ∧ t.data = s.data)) ∧
  (∀ (s t : State) (l l' : Label) (j : PageJob) (r : ReadReply), Sound s → readAfter l = some l' →
    s.pc = .resume l' → pageJob s = some j → busRead (Machine.translate j.space s.cc) 16 s = some (r, t) →
    (∀ xs, r = .bytes xs → xs.length ≠ 16) →
    exec s.command s = .next (raise (.transport (Machine.translate j.space s.cc) true (r != .fail)) t) ∧
    t.data = s.data ∧
    (raise (.transport (Machine.translate j.space s.cc) true (r != .fail)) t).errinfo =
      pageTransportInfo (Machine.translate j.space s.cc) true (r != .fail) j.page)

/-- R72: RB2 of READ_BYTES with a read of the right length ends the command with RESULT 0; DATA[k] is the k-th byte read
for k < count, every other byte of DATA is unchanged, and so is everything else but the trace and the answers. -/
def Obligations.ReadBytesCompletes : Prop :=
  ∀ (sp : Space) (a : Byte) (n : BitVec 9) (s t : State) (xs : List Byte), s.pc = .resume .rb2 → s.data.wf →
    busRead (Machine.translate sp s.cc) n.toNat s = some (.bytes xs, t) → xs.length = n.toNat →
    ∃ m : Memory, exec (.readBytes sp a n) s = .next (finish 0 { t with data := m }) ∧ m.wf ∧
      ∀ k, m.read k = if k < n.toNat then xs.getD k 0 else s.data.read k

/-- R74, R86: RB2 of READ_PAGE with sixteen bytes ends it with the page in DATA[0..15]; RB2 of IS_PAGE_ERASED ends it with
RESULT 1 exactly when all sixteen are zero, and leaves DATA as it was. -/
def Obligations.PageReadsComplete : Prop :=
  ∀ (sp : Space) (p : Byte) (s t : State) (xs : List Byte), s.pc = .resume .rb2 → s.data.wf →
    busRead (Machine.translate sp s.cc) 16 s = some (.bytes xs, t) → xs.length = 16 →
    (∃ m : Memory, exec (.readPage sp p) s = .next (finish 0 { t with data := m }) ∧ m.wf ∧
      ∀ k, m.read k = if k < 16 then xs.getD k 0 else s.data.read k) ∧
    ((∀ x ∈ xs, x = 0) → exec (.isPageErased sp p) s = .next (finish 1 t)) ∧
    ((∃ x ∈ xs, x ≠ 0) → exec (.isPageErased sp p) s = .next (finish 0 t))

/-- R73, R71: WB1 of WRITE_BYTES sends the start address and DATA[0..count) in one transfer; a true answer ends the command
with RESULT 0 and DATA as it was, a false answer raises TransportError. R79 E2 and R80 P3, wherever they stand: the trigger
write of `[eraseTriggerAddress, TriggerByte]` to the Register space goes on to the erase wait, and the page write of the
page's address and its sixteen target bytes goes on to the program wait; a false answer raises TransportError with PAGE and
PAGE_VALID, and no wait follows (R24, D11). -/
def Obligations.WriteBytesCompletes : Prop :=
  (∀ (sp : Space) (a : Byte) (n : BitVec 9) (s t : State) (ok : Bool), s.pc = .resume .wb1 →
    busWrite (Machine.translate sp s.cc) (a :: (List.range n.toNat).map s.data.read) s = some (ok, t) →
    exec (.writeBytes sp a n) s = .next
      (if ok then finish 0 t else raise (.transport (Machine.translate sp s.cc) false false) t)) ∧
  (∀ (s t : State) (lbl : EraseLabel → Label) (d : DeviceDescriptor) (j : PageJob) (ok : Bool), Sound s →
    EraseNaming lbl → s.pc = .resume (lbl .e2Wb1) → s.desc? = some d → pageJob s = some j →
    busWrite (Machine.translate .register s.cc) [d.eraseTriggerAddress, triggerByte d j.space j.page] s = some (ok, t) →
    exec s.command s = .next
      (if ok then { t with pc := .resume (lbl .e3) }
       else raise (.transport (Machine.translate .register s.cc) false false) t) ∧
    (raise (.transport (Machine.translate .register s.cc) false false) t).errinfo =
      pageTransportInfo (Machine.translate .register s.cc) false false j.page) ∧
  (∀ (s t : State) (lbl : PageLabel → Label) (j : PageJob) (ok : Bool), Sound s → PageNaming lbl →
    s.pc = .resume (lbl .p3Wb1) → pageJob s = some j →
    busWrite (Machine.translate j.space s.cc) (pageAddress j.page :: j.target) s = some (ok, t) →
    exec s.command s = .next
      (if ok then { t with pc := .resume (lbl .p4) }
       else raise (.transport (Machine.translate j.space s.cc) false false) t) ∧
    (raise (.transport (Machine.translate j.space s.cc) false false) t).errinfo =
      pageTransportInfo (Machine.translate j.space s.cc) false false j.page)

/-! ### The page sequencer -/

/-- R77, R30: the fields of the erase trigger byte of a well-formed descriptor. -/
def Obligations.TriggerByteFields : Prop :=
  ∀ (d : DeviceDescriptor) (sp : Space) (p : Page), d.wf →
    (triggerByte d sp p).toNat =
      d.eraseTriggerMask.toNat / 32 * 32 + (if sp = .eeprom then 16 else 0) + p.toNat

/-- R75, R85: IS_PAGE_WRITABLE answers 0 exactly for an NVM page that the selected descriptor lists as read-only, and
raises PreconditionError for a page above 15. -/
def Obligations.IsPageWritableCompletes : Prop :=
  ∀ (sp : Space) (p : Byte) (s : State) (d : DeviceDescriptor), s.pc = .resume .start → s.desc? = some d →
    (p.toNat ≤ 15 → sp = .nvm → p.setWidth 4 ∈ d.readOnlyNvmPages →
      exec (.isPageWritable sp p) s = .next (finish 0 s)) ∧
    (p.toNat ≤ 15 → ¬(sp = .nvm ∧ p.setWidth 4 ∈ d.readOnlyNvmPages) →
      exec (.isPageWritable sp p) s = .next (finish 1 s)) ∧
    (15 < p.toNat → exec (.isPageWritable sp p) s = .next (raise .precondition s))

/-- R87, R88, R76: the first step of ERASE_PAGE and of PROGRAM_PAGE: PreconditionError for the Register space or a page
above 15; else BeginPage, and then ReadOnlyPageError for a read-only NVM page, or the first read-back. -/
def Obligations.PageCommandsBegin : Prop :=
  ∀ (sp : Space) (p : Byte) (s : State) (d : DeviceDescriptor), s.pc = .resume .start → s.desc? = some d →
    (sp = .register ∨ 15 < p.toNat →
      exec (.erasePage sp p) s = .next (raise .precondition s) ∧
      exec (.programPage sp p) s = .next (raise .precondition s)) ∧
    (sp ≠ .register → p.toNat ≤ 15 →
      let b : State :=
        { s with status := { s.status with ppage := p.setWidth 4, pspace := sp, pstate := .check } }
      (sp = .nvm ∧ p.setWidth 4 ∈ d.readOnlyNvmPages →
        exec (.erasePage sp p) s = .next (raise (.readOnlyPage (p.setWidth 4)) b) ∧
        exec (.programPage sp p) s = .next (raise (.readOnlyPage (p.setWidth 4)) b)) ∧
      (¬(sp = .nvm ∧ p.setWidth 4 ∈ d.readOnlyNvmPages) →
        exec (.erasePage sp p) s = .next { b with pc := .resume (.erase .e1Rb1) } ∧
        exec (.programPage sp p) s = .next { b with pc := .resume (.page .p1Rb1) }))

/-- R79, R87: the whole of an ERASE_PAGE of a page that is not all zero, with the workaround: read-back, trigger, wait,
dummy write whose answer (here `ok`) is ignored, verify. RESULT is 1 and PSTATE ERASED. -/
def Obligations.ErasePageWholeRun : Prop :=
  ∀ (sp : Space) (p : Byte) (s : State) (d : DeviceDescriptor) (xs : List Byte) (ok : Bool) (ws : List (Option Bool))
    (rs : List (Option ReadReply)), s.pc = .resume .start → s.desc? = some d → sp ≠ .register → p.toNat ≤ 15 →
    ¬(sp = .nvm ∧ p.setWidth 4 ∈ d.readOnlyNvmPages) → s.params.errataWorkaround = true →
    s.params.errataDummyPayload = .zeroLength → 2 ≤ s.params.maxWrite → xs.length = 16 → (∃ x ∈ xs, x ≠ 0) →
    s.writeAnswers = some true :: some true :: some ok :: some true :: ws →
    s.readAnswers = some (.bytes xs) :: some (.bytes (List.replicate 16 0)) :: rs →
    ∃ b, execSteps (.erasePage sp p) 8 s = .next (finish 1
        { s with
          writeAnswers := ws, readAnswers := rs, locals := { s.locals with buf := b },
          status := { s.status with ppage := p.setWidth 4, pspace := sp, pstate := .erased },
          trace := s.trace ++
            [.write (Machine.translate sp s.cc) [p <<< 4] true, .read (Machine.translate sp s.cc) 16 (.bytes xs),
             .write (Machine.translate .register s.cc) [d.eraseTriggerAddress, triggerByte d sp (p.setWidth 4)] true,
             .wait .erase, .write (Machine.translate .register s.cc) [] ok,
             .write (Machine.translate sp s.cc) [p <<< 4] true,
             .read (Machine.translate sp s.cc) 16 (.bytes (List.replicate 16 0))] })

/-- R79, R87: ERASE_PAGE of a page whose first read-back is all zero ends CLEAN with RESULT 0 and no trigger; at E5 an all
zero read ends it ERASED with RESULT 1, and any other sixteen bytes raise EraseVerificationError. -/
def Obligations.ErasePageEnds : Prop :=
  ∀ (sp : Space) (p : Byte) (s t : State) (d : DeviceDescriptor) (xs : List Byte), s.desc? = some d →
    busRead (Machine.translate sp s.cc) 16 s = some (.bytes xs, t) → xs.length = 16 →
    let b : State := { t with locals := { t.locals with buf := xs } }
    (s.pc = .resume (.erase .e1Rb2) → (∀ x ∈ xs, x = 0) →
      exec (.erasePage sp p) s = .next (finish 0 { b with status := { s.status with pstate := .clean } })) ∧
    (s.pc = .resume (.erase .e1Rb2) → (∃ x ∈ xs, x ≠ 0) →
      exec (.erasePage sp p) s = .next
        { b with status := { s.status with pstate := .erasing }, pc := .resume (.erase .e2Wb1) }) ∧
    (s.pc = .resume (.erase .e5Rb2) → (∀ x ∈ xs, x = 0) →
      exec (.erasePage sp p) s = .next (finish 1 { b with status := { s.status with pstate := .erased } })) ∧
    (s.pc = .resume (.erase .e5Rb2) → (∃ x ∈ xs, x ≠ 0) →
      exec (.erasePage sp p) s = .next (raise (.eraseVerification (p.setWidth 4)) b))

/-- R8, R78: the dummy write carries no byte, or the one byte 0x00, as ERRATA_DUMMY_PAYLOAD says. R103: its answer is ignored: after it the erase goes on to the verify read, whatever the answer, in
ERASE_PAGE, in the nested ErasePage of PROGRAM_PAGE, and at the labels of PROGRAM_PAGES and PROGRAM_CONTROL_CODE. R79 E3,
R80 P4: the erase wait goes on to the dummy write under ERRATA_WORKAROUND and else to the verify read, the program wait to
the verify read. -/
def Obligations.DummyAnswerIsIgnored : Prop :=
  (dummyBytes .zeroLength = [] ∧ dummyBytes .zeroByte = [0x00]) ∧
  (∀ (sp : Space) (p : Byte) (s t : State) (d : DeviceDescriptor) (ok : Bool), s.desc? = some d →
    busWrite (Machine.translate .register s.cc) (dummyBytes s.params.errataDummyPayload) s = some (ok, t) →
    (s.pc = .resume (.erase .e4D1) → exec (.erasePage sp p) s = .next { t with pc := .resume (.erase .e5Rb1) }) ∧
    (s.pc = .resume (.page (.p2 .e4D1)) →
      exec (.programPage sp p) s = .next { t with pc := .resume (.page (.p2 .e5Rb1)) }) ∧
    (s.pc = .resume (.pages (.p2 .e4D1)) → ∀ (a : Byte) (n : BitVec 9),
      exec (.programPages sp a n) s = .next { t with pc := .resume (.pages (.p2 .e5Rb1)) } ∧
      exec (.programControlCode n) s = .next { t with pc := .resume (.pages (.p2 .e5Rb1)) })) ∧
  (∀ (s : State) (lbl : EraseLabel → Label), Sound s → EraseNaming lbl → s.pc = .resume (lbl .e3) →
    exec s.command s = .next
      { s with
        trace := s.trace ++ [.wait .erase],
        pc := .resume (if s.params.errataWorkaround then lbl .e4D1 else lbl .e5Rb1) }) ∧
  (∀ (s : State) (lbl : PageLabel → Label), Sound s → PageNaming lbl → s.pc = .resume (lbl .p4) →
    exec s.command s = .next { s with trace := s.trace ++ [.wait .program], pc := .resume (lbl .p5Rb1) })

/-- R80, R88: PROGRAM_PAGE of a page that already equals DATA[0..16) ends CLEAN with RESULT 0 after one read-back; at P5 an
equal read ends it VERIFIED with RESULT bit 0 set and bit 1 set exactly when erased_now is. For PROGRAM_PAGE, PROGRAM_PAGES
and PROGRAM_CONTROL_CODE, with sixteen bytes read: a P1 read that differs from the target goes on to the erase (or raises
ReadOnlyPageError where the page is not writable); an all-zero P2.E1 read goes on to the page write with erased_now false,
with no trigger; any other P2.E1 read goes on to the trigger; an all-zero P2.E5 read goes on to the page write with
erased_now true; any other P2.E5 read raises EraseVerificationError; and a P5 read that differs from the target raises
ProgramVerificationError. -/
def Obligations.ProgramPageEnds : Prop :=
  (∀ (sp : Space) (p : Byte) (s t : State) (d : DeviceDescriptor) (xs : List Byte), s.desc? = some d →
    busRead (Machine.translate sp s.cc) 16 s = some (.bytes xs, t) → xs.length = 16 →
    let b : State := { t with locals := { t.locals with buf := xs } }
    (s.pc = .resume (.page .p1Rb2) → xs = (List.range 16).map s.data.read →
      exec (.programPage sp p) s = .next (finish 0 { b with status := { s.status with pstate := .clean } })) ∧
    (s.pc = .resume (.page .p5Rb2) → xs = (List.range 16).map s.data.read →
      exec (.programPage sp p) s = .next
        (finish (if s.locals.erasedNow then 3 else 1) { b with status := { s.status with pstate := .verified } })) ∧
    (s.pc = .resume (.page .p5Rb2) → xs ≠ (List.range 16).map s.data.read →
      exec (.programPage sp p) s = .next (raise (.programVerification (p.setWidth 4)) b))) ∧
  (∀ (s t : State) (lbl : PageLabel → Label) (d : DeviceDescriptor) (j : PageJob) (xs : List Byte), Sound s →
    PageNaming lbl → s.desc? = some d → pageJob s = some j →
    busRead (Machine.translate j.space s.cc) 16 s = some (.bytes xs, t) → xs.length = 16 →
    let b : State := { t with locals := { t.locals with buf := xs } }
    let write (erased : Bool) : State :=
      { b with
        locals := { b.locals with erasedNow := erased }, status := { s.status with pstate := .programming },
        pc := .resume (lbl .p3Wb1) }
    (s.pc = .resume (lbl .p1Rb2) → xs ≠ j.target → pageWritable d j.space j.page = true →
      exec s.command s = .next { b with pc := .resume (lbl (.p2 .e1Rb1)) }) ∧
    (s.pc = .resume (lbl .p1Rb2) → xs ≠ j.target → pageWritable d j.space j.page = false →
      exec s.command s = .next (raise (.readOnlyPage j.page) b)) ∧
    (s.pc = .resume (lbl (.p2 .e1Rb2)) → (∀ x ∈ xs, x = 0) → exec s.command s = .next (write false)) ∧
    (s.pc = .resume (lbl (.p2 .e1Rb2)) → (∃ x ∈ xs, x ≠ 0) →
      exec s.command s = .next
        { b with status := { s.status with pstate := .erasing }, pc := .resume (lbl (.p2 .e2Wb1)) }) ∧
    (s.pc = .resume (lbl (.p2 .e5Rb2)) → (∀ x ∈ xs, x = 0) → exec s.command s = .next (write true)) ∧
    (s.pc = .resume (lbl (.p2 .e5Rb2)) → (∃ x ∈ xs, x ≠ 0) →
      exec s.command s = .next (raise (.eraseVerification j.page) b)) ∧
    (s.pc = .resume (lbl .p5Rb2) → xs ≠ j.target →
      exec s.command s = .next (raise (.programVerification j.page) b)))

/-- R80, R88, R45 (vector V-PG-3): the whole of a PROGRAM_PAGE of a page that differs from its target and is not all zero:
thirteen events, the read-back repeated, RESULT 3, PSTATE VERIFIED. -/
def Obligations.ProgramPageWholeRun : Prop :=
  ∀ (sp : Space) (p : Byte) (s : State) (d : DeviceDescriptor) (xs ys : List Byte) (ok : Bool)
    (ws : List (Option Bool)) (rs : List (Option ReadReply)), s.pc = .resume .start → s.desc? = some d →
    sp ≠ .register → p.toNat ≤ 15 → ¬(sp = .nvm ∧ p.setWidth 4 ∈ d.readOnlyNvmPages) →
    s.params.errataWorkaround = true → s.params.errataDummyPayload = .zeroLength → 17 ≤ s.params.maxWrite →
    xs.length = 16 → ys.length = 16 → xs ≠ (List.range 16).map s.data.read → (∃ y ∈ ys, y ≠ 0) →
    s.writeAnswers = some true :: some true :: some true :: some ok :: some true :: some true :: some true :: ws →
    s.readAnswers = some (.bytes xs) :: some (.bytes ys) :: some (.bytes (List.replicate 16 0)) ::
      some (.bytes ((List.range 16).map s.data.read)) :: rs →
    ∃ l, execSteps (.programPage sp p) 14 s = .next (finish 3
        { s with
          writeAnswers := ws, readAnswers := rs, locals := l,
          status := { s.status with ppage := p.setWidth 4, pspace := sp, pstate := .verified },
          trace := s.trace ++
            [.write (Machine.translate sp s.cc) [p <<< 4] true, .read (Machine.translate sp s.cc) 16 (.bytes xs),
             .write (Machine.translate sp s.cc) [p <<< 4] true, .read (Machine.translate sp s.cc) 16 (.bytes ys),
             .write (Machine.translate .register s.cc) [d.eraseTriggerAddress, triggerByte d sp (p.setWidth 4)] true,
             .wait .erase, .write (Machine.translate .register s.cc) [] ok,
             .write (Machine.translate sp s.cc) [p <<< 4] true,
             .read (Machine.translate sp s.cc) 16 (.bytes (List.replicate 16 0)),
             .write (Machine.translate sp s.cc) (p <<< 4 :: (List.range 16).map s.data.read) true, .wait .program,
             .write (Machine.translate sp s.cc) [p <<< 4] true,
             .read (Machine.translate sp s.cc) 16 (.bytes ((List.range 16).map s.data.read))] })

/-- R89, R81, R102: the first step of PROGRAM_PAGES. Operands out of range raise PreconditionError. Under RO_POLICY = Fail
the lowest page of the range that is not writable raises ReadOnlyPageError, and where every page is writable the first one
is begun. Under Skip the first writable page of the range is begun, wherever it stands, the pages before it in the skipped
bitmap and, if there are any, in RESULT; a range with no writable page ends at once, each page in the skipped bitmap, with
no bus activity. -/
def Obligations.ProgramPagesBegins : Prop :=
  ∀ (sp : Space) (a : Byte) (n : BitVec 9) (s : State) (d : DeviceDescriptor), s.pc = .resume .start →
    s.desc? = some d →
    ((sp = .register ∨ n.toNat = 0 ∨ n.toNat % 16 ≠ 0 ∨ 256 < 16 * a.toNat + n.toNat) →
      exec (.programPages sp a n) s = .next (raise .precondition s)) ∧
    (sp ≠ .register → 0 < n.toNat → n.toNat % 16 = 0 → 16 * a.toNat + n.toNat ≤ 256 →
      (∀ k : Page, s.params.roPolicy = .fail → a.toNat ≤ k.toNat → k.toNat < a.toNat + n.toNat / 16 →
        pageWritable d sp k = false →
        (∀ j : Page, a.toNat ≤ j.toNat → j.toNat < k.toNat → pageWritable d sp j = true) →
        exec (.programPages sp a n) s = .next (raise (.readOnlyPage k) s)) ∧
      (s.params.roPolicy = .skip →
        (∀ k : Page, a.toNat ≤ k.toNat → k.toNat < a.toNat + n.toNat / 16 → pageWritable d sp k = false) →
        ∃ l r, exec (.programPages sp a n) s = .next (finish r { s with locals := l }) ∧
          ∀ k, r.getLsbD k = (decide (a.toNat ≤ k) && decide (k < a.toNat + n.toNat / 16))) ∧
      (pageWritable d sp (a.setWidth 4) = true →
        (s.params.roPolicy = .skip ∨
          ∀ k : Page, a.toNat ≤ k.toNat → k.toNat < a.toNat + n.toNat / 16 → pageWritable d sp k = true) →
        ∃ l, exec (.programPages sp a n) s = .next
            { s with
              locals := l, pc := .resume (.pages .p1Rb1),
              status := { s.status with ppage := a.setWidth 4, pspace := sp, pstate := .check } } ∧
          l.i = 0 ∧ l.p = a.setWidth 4 ∧ l.skipped = 0 ∧ l.programmed = 0) ∧
      (∀ k : Page, s.params.roPolicy = .skip → a.toNat ≤ k.toNat → k.toNat < a.toNat + n.toNat / 16 →
        pageWritable d sp k = true →
        (∀ j : Page, a.toNat ≤ j.toNat → j.toNat < k.toNat → pageWritable d sp j = false) →
        ∃ l, exec (.programPages sp a n) s = .next
            { s with
              locals := l, pc := .resume (.pages .p1Rb1),
              result := if k.toNat = a.toNat then s.result else resultBitmaps 0 l.skipped,
              status := { s.status with ppage := k, pspace := sp, pstate := .check } } ∧
          l.i.toNat = k.toNat - a.toNat ∧ l.p = k ∧ l.programmed = 0 ∧
          ∀ b, l.skipped.getLsbD b = (decide (a.toNat ≤ b) && decide (b < k.toNat))))

/-- R81, R82, R89: PROGRAM_PAGES at the end of a page that is the last writable one of its range, verified at P5 or found
equal to its target at P1: the read-only pages after it are skipped and the command ends with RESULT = (programmed << 16) |
skipped, a verified page among the programmed, a page that already equalled its target not. PSTATE is the page's own. -/
def Obligations.ProgramPagesCompletes : Prop :=
  ∀ (sp : Space) (a : Byte) (n : BitVec 9) (s t : State) (d : DeviceDescriptor) (xs : List Byte), s.desc? = some d →
    s.pc = .resume (.pages .p5Rb2) ∨ s.pc = .resume (.pages .p1Rb2) →
    a.toNat + n.toNat / 16 ≤ 16 → s.locals.i.toNat < n.toNat / 16 → s.locals.p.toNat = a.toNat + s.locals.i.toNat →
    (∀ k : Page, s.locals.p.toNat < k.toNat → k.toNat < a.toNat + n.toNat / 16 → pageWritable d sp k = false) →
    busRead (Machine.translate sp s.cc) 16 s = some (.bytes xs, t) → xs.length = 16 →
    xs = (List.range 16).map (fun k => s.data.read (16 * s.locals.i.toNat + k)) →
    ∃ l r, exec (.programPages sp a n) s = .next (finish r
        { t with
          status := { s.status with
            pstate := if s.pc = .resume (.pages .p5Rb2) then .verified else .clean }, locals := l }) ∧
      l.buf = xs ∧ l.img = s.locals.img ∧ l.erasedNow = s.locals.erasedNow ∧
      (∀ k < 16, r.getLsbD k = (s.locals.skipped.getLsbD k ||
        (decide (s.locals.p.toNat < k) && decide (k < a.toNat + n.toNat / 16)))) ∧
      (∀ k < 16, r.getLsbD (16 + k) = (s.locals.programmed.getLsbD k ||
        (decide (s.pc = .resume (.pages .p5Rb2)) && decide (k = s.locals.p.toNat)))) ∧
      (s.locals.i.toNat + 1 = n.toNat / 16 → s.pc = .resume (.pages .p5Rb2) →
        l = { t.locals with buf := xs, programmed := s.locals.programmed ||| 1#16 <<< s.locals.p.toNat })

/-- R81: when PROGRAM_PAGES has verified a page, or found it equal to its target, and a later page of its range is writable,
it goes on to the next writable page `k`: the read-only pages between are skipped, and RESULT is rewritten; a page that
already equalled its target sets no programmed bit. -/
def Obligations.ProgramPagesGoesOn : Prop :=
  ∀ (sp : Space) (a : Byte) (n : BitVec 9) (s t : State) (d : DeviceDescriptor) (xs : List Byte) (k : Page),
    s.desc? = some d → s.pc = .resume (.pages .p5Rb2) ∨ s.pc = .resume (.pages .p1Rb2) →
    a.toNat + n.toNat / 16 ≤ 16 → s.locals.p.toNat = a.toNat + s.locals.i.toNat →
    s.locals.p.toNat < k.toNat → k.toNat < a.toNat + n.toNat / 16 → pageWritable d sp k = true →
    (∀ j : Page, s.locals.p.toNat < j.toNat → j.toNat < k.toNat → pageWritable d sp j = false) →
    busRead (Machine.translate sp s.cc) 16 s = some (.bytes xs, t) → xs.length = 16 →
    xs = (List.range 16).map (fun b => s.data.read (16 * s.locals.i.toNat + b)) →
    ∃ pr sk, (pr = if s.pc = .resume (.pages .p5Rb2) then s.locals.programmed ||| 1#16 <<< s.locals.p.toNat
        else s.locals.programmed) ∧
      (∀ b, sk.getLsbD b =
        (s.locals.skipped.getLsbD b || (decide (s.locals.p.toNat < b) && decide (b < k.toNat)))) ∧
      exec (.programPages sp a n) s = .next
        { t with
          pc := .resume (.pages .p1Rb1), result := resultBitmaps pr sk,
          status := { s.status with ppage := k, pspace := sp, pstate := .check },
          locals := { t.locals with
            buf := xs, programmed := pr, skipped := sk, i := BitVec.ofNat 4 (k.toNat - a.toNat), p := k } }

/-- R83, R22: in a sound state a step of a command shows PSTATE move only as the page-mutation state machine allows. A step
makes every move up to the next bus primitive (R34), so ERASED shows as PROGRAMMING inside a program: the model's reading
of R83 and R34 together (log 16). -/
def Obligations.PageStateMovesAsR83 : Prop :=
  ∀ s t : State, Sound s → s.pc ≠ .idle → exec s.command s = .next t →
    visibleMove s.status.pstate t.status.pstate = true ∧ (t.status.pstate = .failed → t.status.err ≠ .none)

/-- R84: the history of a page procedure is kept by every step from a sound state: where the erase trigger comes next the
trace ends with a read of the page that returned sixteen bytes not all zero; where the page write comes next, with a read
that returned sixteen zero bytes; after the trigger the wait and then the dummy write, after the page write the wait. -/
def Obligations.StepKeepsPageHistory : Prop :=
  ∀ s t : State, Sound s → History s → step s = .next t → History t

/-- R84, second law: from a sound state with its history, a command that issues a page write issues it right after a read
of that page that returned sixteen zero bytes, and to a writable page. -/
def Obligations.OnlyErasedPagesAreProgrammed : Prop :=
  ∀ (s t : State) (d : DeviceDescriptor) (j : PageJob), Sound s → History s → s.desc? = some d → pageJob s = some j →
    s.pc = .resume (.page .p3Wb1) ∨ s.pc = .resume (.pages .p3Wb1) → exec s.command s = .next t → t ≠ s →
    pageWritable d j.space j.page = true ∧
    ∃ (pre : List Event) (ok : Bool), t.trace = pre ++
      [.write (Machine.translate j.space s.cc) [pageAddress j.page] true,
       .read (Machine.translate j.space s.cc) 16 (.bytes (List.replicate 16 0)),
       .write (Machine.translate j.space s.cc) (pageAddress j.page :: j.target) ok]

/-- R81, R82: every step from a sound state with its history keeps the skipped bitmap exact: the pages of the range before
the one in progress that are not writable, and no other. -/
def Obligations.StepKeepsSkippedExact : Prop :=
  ∀ s t : State, Sound s → History s → SkippedExact s → step s = .next t → SkippedExact t

/-! ### The device controller -/

/-- R90: RESET_DEVICE step by step: `W(Register, [0xC8, 0x02])` to the address of CC, then `T(RESET)`, which ends it with
RESULT 0; CC and DEVSEL stay. A false answer to X1 raises TransportError and X2 is not performed. -/
def Obligations.ResetDeviceCompletes : Prop :=
  ∀ s : State,
    (s.pc = .resume .start → exec .resetDevice s = .next { s with pc := .resume .x1Wb1 }) ∧
    (∀ (t : State) (ok : Bool), s.pc = .resume .x1Wb1 →
      busWrite (Machine.translate .register s.cc) [0xC8, 0x02] s = some (ok, t) →
      exec .resetDevice s = .next
        (if ok then { t with pc := .resume .x2 }
         else raise (.transport (Machine.translate .register s.cc) false false) t)) ∧
    (s.pc = .resume .x2 →
      exec .resetDevice s = .next (finish 0 { s with trace := s.trace ++ [.wait .reset] })) ∧
    (∀ (t : State), s.pc = .resume .start →
      busWrite (Machine.translate .register s.cc) [0xC8, 0x02] { s with pc := .resume .x1Wb1 } = some (true, t) →
      ∃ u, execSteps .resetDevice 3 s = .next u ∧ u.pc = .idle ∧ u.result = 0 ∧ u.cc = s.cc ∧ u.devsel = s.devsel ∧
        u.trace = s.trace ++ [.write (Machine.translate .register s.cc) [0xC8, 0x02] true, .wait .reset])

/-- R91: SCAN_DEVICE: PreconditionError above 15; else one zero-length write to the Register address of the probed code,
and its answer is the result, never an error. -/
def Obligations.ScanDeviceCompletes : Prop :=
  ∀ (c : Byte) (s : State),
    (s.pc = .resume .start → 15 < c.toNat → exec (.scanDevice c) s = .next (raise .precondition s)) ∧
    (s.pc = .resume .start → c.toNat ≤ 15 → exec (.scanDevice c) s = .next { s with pc := .resume .s1 }) ∧
    (∀ (t : State) (ok : Bool), s.pc = .resume .s1 → c.toNat ≤ 15 →
      busWrite (BitVec.ofNat 7 (8 * c.toNat)) [] s = some (ok, t) →
      exec (.scanDevice c) s = .next (finish (if ok then 1 else 0) t))

/-- R92: a whole SCAN_DEVICES, for any sixteen answers: sixteen zero-length probes in ascending order of code; RESULT holds
the presence bitmap and the count; DATA begins with the responding codes in ascending order and is else unchanged; no
error. -/
def Obligations.ScanDevicesWholeRun : Prop :=
  ∀ (s : State) (answers : List Bool) (rest : List (Option Bool)), s.pc = .resume .start → s.data.wf →
    answers.length = 16 → s.writeAnswers = answers.map some ++ rest →
    ∃ (l : Locals) (m : Memory) (r : Word), execSteps .scanDevices 17 s = .next (finish r
        { s with
          locals := l, data := m, writeAnswers := rest, pc := .resume .scan,
          trace := s.trace ++
            (List.range 16).map (fun c => Event.write (BitVec.ofNat 7 (8 * c)) [] (answers.getD c false)) }) ∧
      r.toNat = ((List.range 16).filter (fun c => answers.getD c false)).length * 65536 + (r.toNat % 65536) ∧
      (∀ c < 16, r.getLsbD c = answers.getD c false) ∧
      (∀ k, m.read k =
        if k < ((List.range 16).filter (fun c => answers.getD c false)).length
        then BitVec.ofNat 8 (((List.range 16).filter (fun c => answers.getD c false)).getD k 0)
        else s.data.read k)

/-- R92, step by step, whatever the transport answers: the first step clears the bitmap and goes on to the probe of code 0;
the probe of a code below 15 notes its answer in the bitmap and goes on to the next code; the probe of code 15 notes its
answer and ends the command: RESULT holds the bitmap and the count, DATA begins with the responding codes in ascending order
and is else unchanged, and no error is reported. Nothing else moves but what the transaction itself does. -/
def Obligations.ScanDevicesCompletes : Prop :=
  (∀ s : State, s.pc = .resume .start →
    exec .scanDevices s = .next { s with pc := .resume .scan, locals := { s.locals with found := 0, c := 0 } }) ∧
  (∀ (s t : State) (ok : Bool), s.pc = .resume .scan →
    busWrite (BitVec.ofNat 7 (8 * s.locals.c.toNat)) [] s = some (ok, t) →
    ∃ found : BitVec 16,
      (∀ k, found.getLsbD k = (s.locals.found.getLsbD k || (ok && decide (k = s.locals.c.toNat)))) ∧
      (s.locals.c.toNat < 15 → exec .scanDevices s = .next
        { t with pc := .resume .scan, locals := { s.locals with found := found, c := s.locals.c + 1 } }) ∧
      (s.locals.c = 15 → ∃ (m : Memory) (r : Word),
        exec .scanDevices s = .next (finish r { t with data := m, locals := { s.locals with found := found } }) ∧
        (∀ c < 16, r.getLsbD c = found.getLsbD c) ∧
        r.toNat / 65536 = ((List.range 16).filter found.getLsbD).length ∧
        (s.data.wf → m.wf ∧ ∀ k, m.read k =
          if k < ((List.range 16).filter found.getLsbD).length
          then BitVec.ofNat 8 (((List.range 16).filter found.getLsbD).getD k 0) else s.data.read k)) ∧
      t.status = s.status ∧ t.result = s.result ∧ t.errinfo = s.errinfo ∧ t.cc = s.cc ∧ t.devsel = s.devsel ∧
      t.data = s.data)

/-- R93: ParseSpec: none exactly for a string that is not four characters of 0, 1, X; else character j (0 is the most
significant) sets bit 3-j of the fixed bits when it is 1, and of the selection mask, four bits higher, when it is X. -/
def Obligations.SpecificationPacking : Prop :=
  ∀ xs : List Byte,
    (parseSpec xs = none ↔ xs.length ≠ 4 ∨ ∃ x ∈ xs, x ≠ 0x30 ∧ x ≠ 0x31 ∧ x ≠ 0x58) ∧
    (∀ b, parseSpec xs = some b → ∀ j < 4,
      b.getLsbD (3 - j) = decide (xs.getD j 0 = 0x31) ∧ b.getLsbD (7 - j) = decide (xs.getD j 0 = 0x58))

/-- R94: the first step of PROGRAM_CONTROL_CODE: InvalidSpecError for a bad specification; else, when the page that holds
the control-code byte is writable, that page procedure begins, with the default page and the packed byte in `img`; under
Skip a read-only page ends the command with its skipped bit. -/
def Obligations.ProgramControlCodeBegins : Prop :=
  ∀ (n : BitVec 9) (s : State) (d : DeviceDescriptor), s.pc = .resume .start → s.desc? = some d → d.wf →
    (parseSpec ((List.range n.toNat).map s.data.read) = none →
      exec (.programControlCode n) s = .next (raise .invalidSpec s)) ∧
    (∀ (b : Byte) (p : Page), parseSpec ((List.range n.toNat).map s.data.read) = some b →
      p.toNat = d.controlCodeAddress.toNat / 16 →
      (pageWritable d .nvm p = true →
        ∃ l, exec (.programControlCode n) s = .next
            { s with
              locals := l, pc := .resume (.pages .p1Rb1),
              status := { s.status with ppage := p, pspace := .nvm, pstate := .check } } ∧
          l.i = 0 ∧ l.p = p ∧ l.skipped = 0 ∧ l.programmed = 0 ∧ l.img.length = 16 ∧
          ∀ k < 16, l.img.getD k 0 =
            if k = d.controlCodeAddress.toNat % 16 then b else d.defaultImage.getD (16 * p.toNat + k) 0) ∧
      (pageWritable d .nvm p = false → s.params.roPolicy = .skip →
        ∃ l r, exec (.programControlCode n) s = .next (finish r { s with locals := l }) ∧
          ∀ k, r.getLsbD k = decide (k = p.toNat)) ∧
      (pageWritable d .nvm p = false → s.params.roPolicy = .fail →
        exec (.programControlCode n) s = .next
          (raise (.readOnlyPage p) { s with locals := { s.locals with img := controlCodePage d b } })))

/-- R94, R80, R82: PROGRAM_CONTROL_CODE at the verify read of its page, when it reads back equal to `img`: it ends VERIFIED
with the page's bit in the programmed bitmap; at its first read-back, when the page already equals `img`: it ends CLEAN with
the bitmaps as they were. CC is not changed. -/
def Obligations.ProgramControlCodeCompletes : Prop :=
  ∀ (n : BitVec 9) (s t : State) (d : DeviceDescriptor), s.desc? = some d → s.locals.i = 0 →
    s.locals.img.length = 16 → busRead (Machine.translate .nvm s.cc) 16 s = some (.bytes s.locals.img, t) →
    (s.pc = .resume (.pages .p5Rb2) →
      ∃ r, exec (.programControlCode n) s = .next (finish r
          { t with
            status := { s.status with pstate := .verified },
            locals := { t.locals with
              buf := s.locals.img, programmed := s.locals.programmed ||| 1#16 <<< s.locals.p.toNat } }) ∧
        (∀ k < 16, r.getLsbD k = s.locals.skipped.getLsbD k) ∧
        (∀ k < 16, r.getLsbD (16 + k) = (s.locals.programmed.getLsbD k || decide (k = s.locals.p.toNat)))) ∧
    (s.pc = .resume (.pages .p1Rb2) →
      exec (.programControlCode n) s = .next (finish (resultBitmaps s.locals.programmed s.locals.skipped)
        { t with
          status := { s.status with pstate := .clean },
          locals := { t.locals with buf := s.locals.img } })) ∧
    t.cc = s.cc

/-- R95: SET_CONTROL_CODE writes CC for a code 0..15, and above 15 raises PreconditionError with CC unchanged. -/
def Obligations.SetControlCodeCompletes : Prop :=
  ∀ (c : Byte) (s : State), s.pc = .resume .start →
    (c.toNat ≤ 15 →
      exec (.setControlCode c) s = .next (finish 0 { s with cc := BitVec.ofNat 4 c.toNat })) ∧
    (15 < c.toNat → exec (.setControlCode c) s = .next (raise .precondition s))

/-- R96: SET_DEVICE writes DEVSEL with the index of the entry whose name is DATA[0..n) byte for byte; with no such entry it
raises UnknownDeviceError, and above 256 PreconditionError, DEVSEL unchanged. -/
def Obligations.SetDeviceCompletes : Prop :=
  ∀ (n : BitVec 9) (s : State), s.pc = .resume .start → s.params.wf →
    (256 < n.toNat → exec (.setDevice n) s = .next (raise .precondition s)) ∧
    (n.toNat ≤ 256 →
      (∀ (k : Nat) (d : DeviceDescriptor), s.params.descriptors[k]? = some d →
        d.name = (List.range n.toNat).map s.data.read →
        exec (.setDevice n) s = .next (finish 0 { s with devsel := BitVec.ofNat 8 k })) ∧
      ((∀ d ∈ s.params.descriptors, d.name ≠ (List.range n.toNat).map s.data.read) →
        exec (.setDevice n) s = .next (raise .unknownDevice s)))

/-! ### The host port and controller reset -/

/-- R18 to R27: what a host read of each word of the window returns, while a command runs and while none does, and that a
read changes nothing else. The host polls BUSY in bit 0 of STATUS (R21, R107). A read of DATA returns its bytes while
BUSY = 0; while BUSY = 1 its value is unspecified (R25), a free value of the model that only moves the counter of free bytes
(log 11). PSTATE reads as R22 numbers it. R19: a read at no aligned offset of the window is no host move, and the model
refuses it by name (log 18). -/
def Obligations.HostReadsTheWindow : Prop :=
  (PState.none.code = 0 ∧ PState.check.code = 1 ∧ PState.clean.code = 2 ∧ PState.erasing.code = 3 ∧
    PState.erased.code = 4 ∧ PState.programming.code = 5 ∧ PState.verified.code = 6 ∧ PState.failed.code = 7) ∧
  (∀ (off : Nat) (s : State) (rest : List Turn), s.schedule = .host (.read off) :: rest → off % 4 = 0 → off < 512 →
    ∃ w n, step s = .next { s with schedule := rest, hostRead := w, draws := n } ∧
      (off < 0x100 ∨ s.status.busy = false → n = s.draws) ∧
      (off = 0x000 → w = s.cmdreg) ∧
      (off = 0x004 → w.toNat = s.status.busy.toNat + 2 * s.status.done.toNat + 4 * s.status.overrun.toNat +
        16 * s.status.err.code.toNat + 256 * s.status.pstate.code.toNat + 4096 * s.status.ppage.toNat +
        65536 * (spaceCode s.status.pspace).toNat) ∧
      (off = 0x008 → w = s.result) ∧ (off = 0x00C → w.toNat = s.cc.toNat) ∧
      (off = 0x010 → w.toNat = s.devsel.toNat) ∧
      (off = 0x014 → w.toNat = s.errinfo.addr7.toNat + 128 * s.errinfo.dir.toNat + 256 * s.errinfo.page.toNat +
        4096 * s.errinfo.pageValid.toNat + 8192 * s.errinfo.lengthMismatch.toNat) ∧
      (0x018 ≤ off → off < 0x100 → w = 0) ∧
      (0x100 ≤ off → s.status.busy = false → ∀ k < 4, w.extractLsb' (8 * k) 8 = s.data.read (off - 0x100 + k))) ∧
  (∀ (off : Nat) (s : State) (rest : List Turn), s.schedule = .host (.read off) :: rest → off % 4 ≠ 0 ∨ 512 ≤ off →
    step s = .refused (.badHostAccess off))

/-- R25, R19: a host write of a DATA word while BUSY = 0 stores its four bytes, the lowest first, and nothing else. -/
def Obligations.HostWritesData : Prop :=
  ∀ (off : Nat) (w : Word) (s : State) (rest : List Turn), s.schedule = .host (.write off w) :: rest →
    s.status.busy = false → s.data.wf → off % 4 = 0 → 0x100 ≤ off → off < 0x200 →
    ∃ m : Memory, step s = .next { s with schedule := rest, data := m } ∧ m.wf ∧
      ∀ k, m.read k =
        if off - 0x100 ≤ k ∧ k < off - 0x100 + 4 then w.extractLsb' (8 * (k - (off - 0x100))) 8 else s.data.read k

/-- R20, R25: a host write to CMDREG or to DATA while BUSY = 1 is ignored and sets OVERRUN. R21, R26: a host write
elsewhere in the window never changes anything. R19: a write at no aligned offset of the window is no host move, and the
model refuses it by name (log 18). -/
def Obligations.HostWritesThatAreIgnored : Prop :=
  ∀ (off : Nat) (w : Word) (s : State) (rest : List Turn), s.schedule = .host (.write off w) :: rest →
    (s.status.busy = true → off = 0 ∨ (0x100 ≤ off ∧ off < 0x200 ∧ off % 4 = 0) →
      step s = .next { s with schedule := rest, status := { s.status with overrun := true } }) ∧
    (off % 4 = 0 → 0 < off → off < 0x100 → step s = .next { s with schedule := rest }) ∧
    (off % 4 ≠ 0 ∨ 0x200 ≤ off → step s = .refused (.badHostAccess off))

/-- R113, R114, R106: controller reset, in any state, a hung one too: every register at its reset value, the running command
abandoned, no bus event, the session from the construction arguments, the parameters unchanged. The model's choices beside
it: the bytes of DATA and the locals, which R114 leaves unspecified, are free values (log 4, log 5), the trace and the
host's turns stay (log 20), of the transport's answers only the one that never came is taken off (log 6), and a device index
outside the table (R115) is refused (log 18). -/
def Obligations.ControllerResetState : Prop :=
  ∀ (s : State) (d : Byte) (cc : ControlCode) (rest : List Turn), s.schedule = .host (.reset d cc) :: rest →
    (d.toNat < s.params.descriptors.length →
      ∃ (m : Memory) (l : Locals) (n k : Nat) (ws : List (Option Bool)) (rs : List (Option ReadReply)), m.wf ∧
        (ws = s.writeAnswers ∨ s.writeAnswers = none :: ws) ∧ (rs = s.readAnswers ∨ s.readAnswers = none :: rs) ∧
        step s = .next
          { s with
            schedule := rest, cmdreg := 0, result := 0, cc := cc, devsel := d, data := m, pc := .idle, locals := l,
            draws := n, answerDraws := k, writeAnswers := ws, readAnswers := rs,
            status := { busy := false, done := false, overrun := false, err := .none, pstate := .none, ppage := 0,
                        pspace := .register },
            errinfo := { addr7 := 0, dir := false, page := 0, pageValid := false, lengthMismatch := false } }) ∧
    (s.params.descriptors.length ≤ d.toNat → step s = .refused (.noLaunch d))

/-- R114: the reset state's registers whose value the spec gives; and the model's own field `trace`, which begins empty (the
model's choice, log 12). -/
def Obligations.ResetStateValues : Prop :=
  State.reset.cmdreg = 0 ∧ State.reset.status.word = 0 ∧ State.reset.result = 0 ∧ State.reset.errinfo.word = 0 ∧
  State.reset.pc = .idle ∧ State.reset.trace = []

/-- R66: a command line of a script, when BUSY = 0, writes its word to CMDREG as an acceptance; a directive, when BUSY = 0,
stores its bytes from DATA[o] on. That a line is one host move is the model's choice (log 17), and so is the name under which
a directive that runs past DATA[255] is refused (log 18). -/
def Obligations.ScriptLinesRun : Prop :=
  (∀ (w : Word) (s : State) (rest : List Turn), s.schedule = .host (.command w) :: rest → s.status.busy = false →
    step s = .next (accept w { s with schedule := rest })) ∧
  (∀ (o : Nat) (bs : List Byte) (s : State) (rest : List Turn), s.schedule = .host (.directive o bs) :: rest →
    s.status.busy = false → s.data.wf → o + bs.length ≤ 256 →
    ∃ m : Memory, step s = .next { s with schedule := rest, data := m } ∧ m.wf ∧
      ∀ k, m.read k = if o ≤ k ∧ k < o + bs.length then bs.getD (k - o) 0 else s.data.read k) ∧
  (∀ (o : Nat) (bs : List Byte) (s : State) (rest : List Turn), s.schedule = .host (.directive o bs) :: rest →
    s.status.busy = false → 256 < o + bs.length → step s = .refused (.badDirective o bs.length))

/-! ### The invariant -/

/-- The reset state is sound (the model's invariant). It holds for every value of the OPEN fields and of INIT_CC, and rests
on the model's choices for DATA and the locals only in that DATA is in its canonical form (log 4). -/
def Obligations.ResetIsSound : Prop := Sound State.reset

/-- Every step from a sound state ends in a sound state, the invariant that `Sound` names field by field (R22, R30, R32, R76,
R81, R82, R97 to R99; the canonical form of DATA is the model's, log 4). -/
def Obligations.StepKeepsSoundness : Prop := ∀ s t : State, Sound s → step s = .next t → Sound t

/-- No run from a sound state ends in a fault: the sequencer always stands at a label of the command in CMDREG (R32), and
DEVSEL always names a descriptor. So the model's two faults (log 14) are reached by no run. -/
def Obligations.SoundRunsNeverFault : Prop := ∀ s : State, Sound s → NeverFaults s
end

