-- ==== Sys2Proof/Laws/Codec.lean ====
section
/-! SUPPORT. A word as its six fields (R58), and R62's mask tests as tests on fields. -/

namespace Sys2Proof

/-- The word whose fields are, from bit 31 down, SBZ1, COUNT, ARG, SBZ0, SPACE and OP (R58). -/
def fieldWord (sbz1 : BitVec 7) (count : BitVec 9) (arg : Byte) (sbz0 space : BitVec 2) (op : BitVec 4) : Word :=
  sbz1 ++ count ++ arg ++ sbz0 ++ space ++ op

/-- Every word is the word of its fields. -/
theorem word_eq_fieldWord (w : Word) :
    w = fieldWord (wordSbz1 w) (wordCount w) (wordArg w) (wordSbz0 w) (wordSpace w) (wordOp w) := by
  apply BitVec.eq_of_getLsbD_eq
  intro i hi
  simp only [fieldWord, wordSbz1, wordCount, wordArg, wordSbz0, wordSpace, wordOp, BitVec.getLsbD_append,
    BitVec.getLsbD_extractLsb']
  grind

section Fields

variable (z1 : BitVec 7) (n : BitVec 9) (a : Byte) (z0 sp : BitVec 2) (op : BitVec 4)

@[simp] theorem wordOp_fieldWord : wordOp (fieldWord z1 n a z0 sp op) = op := by
  apply BitVec.eq_of_getLsbD_eq
  intro i hi
  simp only [wordOp, fieldWord, BitVec.getLsbD_extractLsb', BitVec.getLsbD_append]
  grind

@[simp] theorem wordSpace_fieldWord : wordSpace (fieldWord z1 n a z0 sp op) = sp := by
  apply BitVec.eq_of_getLsbD_eq
  intro i hi
  simp only [wordSpace, fieldWord, BitVec.getLsbD_extractLsb', BitVec.getLsbD_append]
  grind

@[simp] theorem wordSbz0_fieldWord : wordSbz0 (fieldWord z1 n a z0 sp op) = z0 := by
  apply BitVec.eq_of_getLsbD_eq
  intro i hi
  simp only [wordSbz0, fieldWord, BitVec.getLsbD_extractLsb', BitVec.getLsbD_append]
  grind

@[simp] theorem wordArg_fieldWord : wordArg (fieldWord z1 n a z0 sp op) = a := by
  apply BitVec.eq_of_getLsbD_eq
  intro i hi
  simp only [wordArg, fieldWord, BitVec.getLsbD_extractLsb', BitVec.getLsbD_append]
  grind

@[simp] theorem wordCount_fieldWord : wordCount (fieldWord z1 n a z0 sp op) = n := by
  apply BitVec.eq_of_getLsbD_eq
  intro i hi
  simp only [wordCount, fieldWord, BitVec.getLsbD_extractLsb', BitVec.getLsbD_append]
  grind

@[simp] theorem wordSbz1_fieldWord : wordSbz1 (fieldWord z1 n a z0 sp op) = z1 := by
  apply BitVec.eq_of_getLsbD_eq
  intro i hi
  simp only [wordSbz1, fieldWord, BitVec.getLsbD_extractLsb', BitVec.getLsbD_append]
  grind

/-- The fields a row reads, of the word of its fields. -/
@[simp] theorem extract_space_fieldWord : (fieldWord z1 n a z0 sp op).extractLsb' 4 2 = sp :=
  wordSpace_fieldWord z1 n a z0 sp op

@[simp] theorem extract_arg_fieldWord : (fieldWord z1 n a z0 sp op).extractLsb' 8 8 = a :=
  wordArg_fieldWord z1 n a z0 sp op

@[simp] theorem extract_count_fieldWord : (fieldWord z1 n a z0 sp op).extractLsb' 16 9 = n :=
  wordCount_fieldWord z1 n a z0 sp op

/-- R58's formula is the word of the fields with both should-be-zero fields zero. -/
theorem packWord_eq_fieldWord : packWord op sp a n = fieldWord 0 n a 0 sp op := by
  apply BitVec.eq_of_getLsbD_eq
  intro i hi
  simp [packWord, fieldWord]
  grind

end Fields

/-- Words are equal exactly when their fields are. -/
theorem fieldWord_inj {z1 z1' : BitVec 7} {n n' : BitVec 9} {a a' : Byte} {z0 z0' sp sp' : BitVec 2}
    {op op' : BitVec 4} :
    fieldWord z1 n a z0 sp op = fieldWord z1' n' a' z0' sp' op' ↔
      z1 = z1' ∧ n = n' ∧ a = a' ∧ z0 = z0' ∧ sp = sp' ∧ op = op' := by
  constructor
  · intro h
    have h1 := congrArg wordSbz1 h
    have h2 := congrArg wordCount h
    have h3 := congrArg wordArg h
    have h4 := congrArg wordSbz0 h
    have h5 := congrArg wordSpace h
    have h6 := congrArg wordOp h
    simp only [wordSbz1_fieldWord, wordCount_fieldWord, wordArg_fieldWord, wordSbz0_fieldWord, wordSpace_fieldWord,
      wordOp_fieldWord] at h1 h2 h3 h4 h5 h6
    exact ⟨h1, h2, h3, h4, h5, h6⟩
  · rintro ⟨rfl, rfl, rfl, rfl, rfl, rfl⟩
    rfl

/-- A mask test on a word is a mask test on each field. -/
theorem fieldWord_and_eq {z1 : BitVec 7} {n : BitVec 9} {a : Byte} {z0 sp : BitVec 2} {op : BitVec 4} {m p : Word} :
    fieldWord z1 n a z0 sp op &&& m = p ↔
      z1 &&& wordSbz1 m = wordSbz1 p ∧ n &&& wordCount m = wordCount p ∧ a &&& wordArg m = wordArg p ∧
        z0 &&& wordSbz0 m = wordSbz0 p ∧ sp &&& wordSpace m = wordSpace p ∧ op &&& wordOp m = wordOp p := by
  have hand : fieldWord z1 n a z0 sp op &&& m =
      fieldWord (z1 &&& wordSbz1 m) (n &&& wordCount m) (a &&& wordArg m) (z0 &&& wordSbz0 m) (sp &&& wordSpace m)
        (op &&& wordOp m) := by
    conv_lhs => rw [word_eq_fieldWord m]
    apply BitVec.eq_of_getLsbD_eq
    intro i hi
    simp only [fieldWord, BitVec.getLsbD_and, BitVec.getLsbD_append]
    grind
  rw [hand]
  conv_lhs => rw [word_eq_fieldWord p]
  exact fieldWord_inj

/-- A SPACE field names a space exactly when it is that space's code (R59). -/
theorem spaceOf_eq_some {c : BitVec 2} {sp : Space} : spaceOf c = some sp ↔ c = spaceCode sp := by
  revert c
  cases sp <;> decide

@[simp] theorem spaceOf_spaceCode (sp : Space) : spaceOf (spaceCode sp) = some sp := by
  cases sp <;> rfl

/-- The bytes of a word make the word again (R19). -/
theorem bytesWord_wordBytes (w : Word) :
    bytesWord (w.extractLsb' 0 8) (w.extractLsb' 8 8) (w.extractLsb' 16 8) (w.extractLsb' 24 8) = w := by
  apply BitVec.eq_of_getLsbD_eq
  intro i hi
  simp only [bytesWord, BitVec.getLsbD_append, BitVec.getLsbD_extractLsb']
  grind

end Sys2Proof
end

