-- ==== Sys2Proof/Laws/Operands.lean ====
section
/-! SUPPORT. What each operand check, address and status word is, in numbers. -/

namespace Sys2Proof.Machine

/-! ### Operand checks -/

theorem badRange_iff {a : Byte} {n : BitVec 9} : badRange a n = true ↔ n.toNat = 0 ∨ 256 < a.toNat + n.toNat := by
  simp [badRange]

theorem badNvWrite_iff {sp : Space} {a : Byte} {n : BitVec 9} :
    badNvWrite sp a n = true ↔ sp ≠ .register ∧ (a.toNat % 16 ≠ 0 ∨ n.toNat ≠ 16) := by
  simp [badNvWrite]

theorem badPage_iff {sp : Space} {p : Byte} : badPage sp p = true ↔ sp = .register ∨ 15 < p.toNat := by
  simp [badPage]

theorem badPages_iff {sp : Space} {a : Byte} {n : BitVec 9} :
    badPages sp a n = true ↔
      sp = .register ∨ n.toNat = 0 ∨ n.toNat % 16 ≠ 0 ∨ 256 < a.toNat * 16 + n.toNat := by
  simp [badPages]

theorem above15_iff {c : Byte} : above15 c = true ↔ 15 < c.toNat := by
  simp [above15]

theorem allZero_iff {xs : List Byte} : allZero xs = true ↔ ∀ x ∈ xs, x = 0 := by
  simp [allZero]

/-! ### Addresses -/

/-- The low four bits of a page operand that has passed its check are that page. -/
theorem nibble_toNat {p : Byte} (h : p.toNat ≤ 15) : (nibble p).toNat = p.toNat := by
  simp [nibble]
  omega

/-- A page's first address, in numbers (R37). -/
theorem pageAddress_toNat (p : Page) : (pageAddress p).toNat = 16 * p.toNat := by
  revert p
  decide

/-- The bus address of a space under a code, in numbers (R67). -/
theorem translate_toNat (sp : Space) (cc : ControlCode) :
    (translate sp cc).toNat = 8 * cc.toNat + (sub sp).toNat := by
  revert cc
  cases sp <;> decide

/-! ### The device descriptor -/

/-- A page that is not writable is a read-only page of the NVM (R75). -/
theorem pageWritable_eq_false {d : DeviceDescriptor} {sp : Space} {p : Page} :
    pageWritable d sp p = false ↔ sp = .nvm ∧ p ∈ d.readOnlyNvmPages := by
  unfold pageWritable
  split <;> simp_all

/-! ### Bitmaps -/

theorem toNat_append {m n : Nat} (x : BitVec m) (y : BitVec n) : (x ++ y).toNat = x.toNat * 2 ^ n + y.toNat := by
  rw [BitVec.toNat_append, ← Nat.shiftLeft_add_eq_or_of_lt y.isLt, Nat.shiftLeft_eq]

theorem addBit_getLsbD (m : BitVec 16) (k : BitVec 4) (j : Nat) :
    (addBit m k).getLsbD j = (m.getLsbD j || decide (j = k.toNat)) := by
  have hk := k.isLt
  simp only [addBit, BitVec.getLsbD_or, BitVec.getLsbD_shiftLeft, BitVec.getLsbD_one]
  congr 1
  by_cases hj : j = k.toNat
  · simp [hj, hk]
  · simp [hj]
    omega

/-- Bits 15..0 of the result of ProgramPages are the skipped pages (R82). -/
theorem resultBitmaps_low (pr sk : BitVec 16) {k : Nat} (h : k < 16) :
    (resultBitmaps pr sk).getLsbD k = sk.getLsbD k := by
  simp [resultBitmaps, h]
  omega

/-- Bits 31..16 of the result of ProgramPages are the programmed pages (R82). -/
theorem resultBitmaps_high (pr sk : BitVec 16) {k : Nat} (h : k < 16) :
    (resultBitmaps pr sk).getLsbD (16 + k) = pr.getLsbD k := by
  have h1 : 16 + k < 32 := by omega
  simp [resultBitmaps, h1]

/-- At most sixteen codes respond (R92). -/
theorem setBits_length_le (m : BitVec 16) : (setBits m).length ≤ 16 := by
  simpa [setBits] using List.length_filter_le (fun k => m.getLsbD k) (List.range 16)

/-- The result of SCAN_DEVICES in numbers: the count above the presence bitmap (R92). -/
theorem scanResult_toNat (found : BitVec 16) :
    (scanResult found).toNat = (setBits found).length * 65536 + found.toNat := by
  have hl := setBits_length_le found
  have h : scanResult found = BitVec.ofNat 16 (setBits found).length ++ found := by
    apply BitVec.eq_of_getLsbD_eq
    intro i hi
    have hf : 16 ≤ i → found.getLsbD i = false := fun h => BitVec.getLsbD_of_ge _ _ h
    simp only [scanResult, BitVec.getLsbD_or, BitVec.getLsbD_append, BitVec.getLsbD_setWidth, BitVec.getLsbD_shiftLeft,
      BitVec.getLsbD_ofNat, hi]
    by_cases h : i < 16
    · simp [h]
    · simp [h, hf (by omega), show i - 16 < 32 by omega, show i - 16 < 16 by omega]
  rw [h, toNat_append, BitVec.toNat_ofNat]
  omega

/-- Bits 15..0 of the result of SCAN_DEVICES are the presence bitmap (R92). -/
theorem scanResult_low (found : BitVec 16) {k : Nat} (h : k < 16) : (scanResult found).getLsbD k = found.getLsbD k := by
  simp [scanResult, h]
  omega

/-! ### Status words -/

/-- STATUS in numbers (R21). -/
theorem Status.word_toNat (st : Status) :
    st.word.toNat = st.busy.toNat + 2 * st.done.toNat + 4 * st.overrun.toNat + 16 * st.err.code.toNat +
      256 * st.pstate.code.toNat + 4096 * st.ppage.toNat + 65536 * (spaceCode st.pspace).toNat := by
  simp only [Status.word, toNat_append, BitVec.toNat_ofBool, BitVec.toNat_ofNat]
  omega

/-- ERRINFO in numbers (R24). -/
theorem ErrInfo.word_toNat (e : ErrInfo) :
    e.word.toNat = e.addr7.toNat + 128 * e.dir.toNat + 256 * e.page.toNat + 4096 * e.pageValid.toNat +
      8192 * e.lengthMismatch.toNat := by
  simp only [ErrInfo.word, toNat_append, BitVec.toNat_ofBool, BitVec.toNat_ofNat]
  omega

end Sys2Proof.Machine
end

