-- ==== Sys2Proof/Laws/Memory.lean ====
section
/-! SUPPORT. The laws of the DATA buffer: reading after writing, and that every memory operation keeps the canonical
form. -/

namespace Sys2Proof.Machine

@[simp] theorem Memory.read_nil (a : Nat) : Memory.read [] a = Memory.unlisted := rfl

theorem Memory.wf_nil : Memory.wf [] := ⟨List.Pairwise.nil, by simp⟩

/-- The tail of a canonical buffer is canonical, and its indices lie above the head's. -/
theorem Memory.wf_cons {k : Nat} {v : Byte} {m : Memory} :
    Memory.wf ((k, v) :: m) ↔ (∀ c ∈ m, k < c.1) ∧ k < 256 ∧ v ≠ Memory.unlisted ∧ Memory.wf m := by
  simp only [Memory.wf, List.map_cons, List.pairwise_cons, List.mem_map, List.mem_cons, forall_eq_or_imp]
  constructor
  · rintro ⟨⟨h1, h2⟩, ⟨h3, h4⟩, h5⟩
    exact ⟨fun c hc => h1 _ ⟨c, hc, rfl⟩, h3, h4, h2, h5⟩
  · rintro ⟨h1, h3, h4, h2, h5⟩
    exact ⟨⟨fun a ⟨c, hc, e⟩ => e ▸ h1 c hc, h2⟩, ⟨h3, h4⟩, h5⟩

/-- An index below every listed one is unlisted. -/
theorem Memory.read_below {m : Memory} {a : Nat} (h : ∀ c ∈ m, a < c.1) : m.read a = Memory.unlisted := by
  induction m with
  | nil => rfl
  | cons c m ih =>
    obtain ⟨k, v⟩ := c
    have hk : a < k := h (k, v) (by simp)
    simp only [Memory.read]
    rw [if_neg (by omega)]
    exact ih fun c hc => h c (by simp [hc])

theorem Memory.read_consByte {m : Memory} {a : Nat} {b : Byte} (h : ∀ c ∈ m, a < c.1) (x : Nat) :
    (Memory.cons a b m).read x = if x = a then b else m.read x := by
  unfold Memory.cons
  split
  · rename_i hb
    split
    · rename_i hx
      rw [hx, Memory.read_below h, hb]
    · rfl
  · simp only [Memory.read]
    by_cases hx : x = a
    · simp [hx]
    · simp [hx, Ne.symm hx]

/-- A read after a write gives the byte written, and a write leaves every other index alone. -/
theorem Memory.read_write {m : Memory} (hm : m.wf) (a : Nat) (b : Byte) (x : Nat) :
    (m.write a b).read x = if x = a then b else m.read x := by
  induction m with
  | nil => simp only [Memory.write]; rw [Memory.read_consByte (by simp)]
  | cons c m ih =>
    obtain ⟨k, v⟩ := c
    obtain ⟨h1, -, -, h2⟩ := Memory.wf_cons.1 hm
    simp only [Memory.write]
    split
    · rename_i hak
      rw [Memory.read_consByte]
      simp only [List.mem_cons, forall_eq_or_imp]
      exact ⟨hak, fun c hc => lt_trans hak (h1 c hc)⟩
    · split
      · rename_i hak
        subst hak
        rw [Memory.read_consByte h1]
        by_cases hx : x = a
        · simp [hx]
        · simp [hx, Memory.read, Ne.symm hx]
      · simp only [Memory.read, ih h2]
        by_cases hkx : k = x
        · subst hkx
          simp
          omega
        · simp [hkx]

theorem Memory.wf_consByte {m : Memory} {a : Nat} {b : Byte} (hm : m.wf) (ha : a < 256) (h : ∀ c ∈ m, a < c.1) :
    (Memory.cons a b m).wf := by
  unfold Memory.cons
  split
  · exact hm
  · rename_i hb
    exact Memory.wf_cons.2 ⟨h, ha, hb, hm⟩

/-- The indices listed after a write are the written one or were listed before. -/
theorem Memory.mem_write {m : Memory} {a : Nat} {b : Byte} {c : Host.Cell} (h : c ∈ m.write a b) : c.1 = a ∨ c ∈ m := by
  induction m with
  | nil =>
    simp only [Memory.write, Memory.cons] at h
    split at h <;> simp_all
  | cons d m ih =>
    obtain ⟨k, v⟩ := d
    simp only [Memory.write, Memory.cons] at h
    split at h
    · split at h <;> simp_all
      rcases h with h | h | h <;> simp_all
    · split at h
      · split at h <;> simp_all
        rcases h with h | h <;> simp_all
      · simp only [List.mem_cons] at h ⊢
        rcases h with h | h
        · exact .inr (.inl h)
        · exact (ih h).imp id .inr

/-- A write keeps the canonical form. -/
theorem Memory.wf_write {m : Memory} (hm : m.wf) {a : Nat} (ha : a < 256) (b : Byte) : (m.write a b).wf := by
  induction m with
  | nil => exact Memory.wf_consByte hm ha (by simp)
  | cons c m ih =>
    obtain ⟨k, v⟩ := c
    obtain ⟨h1, h3, h4, h2⟩ := Memory.wf_cons.1 hm
    simp only [Memory.write]
    split
    · rename_i hak
      refine Memory.wf_consByte hm ha ?_
      simp only [List.mem_cons, forall_eq_or_imp]
      exact ⟨hak, fun c hc => lt_trans hak (h1 c hc)⟩
    · split
      · rename_i hak
        exact Memory.wf_consByte h2 ha (hak ▸ h1)
      · refine Memory.wf_cons.2 ⟨fun c hc => ?_, h3, h4, ih h2⟩
        rcases Memory.mem_write hc with h | h
        · omega
        · exact h1 c h

/-- Storing a list of bytes keeps the canonical form. -/
theorem Memory.wf_writeList {m : Memory} (hm : m.wf) {a : Nat} {bs : List Byte} (h : a + bs.length ≤ 256) :
    (m.writeList a bs).wf := by
  induction bs generalizing m a with
  | nil => exact hm
  | cons b bs ih =>
    simp only [List.length_cons] at h
    exact ih (Memory.wf_write hm (by omega) b) (by omega)

/-- What an index reads as after a list of bytes has been stored from index `a` on. -/
theorem Memory.read_writeList {m : Memory} (hm : m.wf) {a : Nat} {bs : List Byte} (h : a + bs.length ≤ 256) (x : Nat) :
    (m.writeList a bs).read x = if a ≤ x ∧ x < a + bs.length then bs.getD (x - a) 0 else m.read x := by
  induction bs generalizing m a with
  | nil =>
    simp only [Memory.writeList, List.length_nil]
    rw [if_neg (by omega)]
  | cons b bs ih =>
    simp only [List.length_cons] at h
    simp only [Memory.writeList]
    rw [ih (Memory.wf_write hm (by omega) b) (by omega), Memory.read_write hm]
    by_cases hx : x = a
    · subst hx
      simp
    · by_cases hin : a + 1 ≤ x ∧ x < a + 1 + bs.length
      · have : x - a = x - (a + 1) + 1 := by omega
        rw [if_pos hin, if_pos (by simp only [List.length_cons]; omega), this, List.getD_cons_succ]
      · rw [if_neg hin, if_neg hx, if_neg (by simp only [List.length_cons]; omega)]

/-- Two canonical buffers that read alike are equal. -/
theorem Memory.ext_read {m m' : Memory} (hm : m.wf) (hm' : m'.wf) (h : ∀ x, m.read x = m'.read x) : m = m' := by
  induction m generalizing m' with
  | nil =>
    cases m' with
    | nil => rfl
    | cons c m' =>
      obtain ⟨k, v⟩ := c
      obtain ⟨-, -, hv, -⟩ := Memory.wf_cons.1 hm'
      have := h k
      simp only [Memory.read, if_true] at this
      exact absurd this.symm hv
  | cons c m ih =>
    obtain ⟨k, v⟩ := c
    obtain ⟨h1, -, hv, h2⟩ := Memory.wf_cons.1 hm
    cases m' with
    | nil =>
      have := h k
      simp only [Memory.read, if_true] at this
      exact absurd this hv
    | cons c' m' =>
      obtain ⟨k', v'⟩ := c'
      obtain ⟨h1', -, hv', h2'⟩ := Memory.wf_cons.1 hm'
      have hkk : k = k' := by
        rcases lt_trichotomy k k' with hlt | heq | hgt
        · have := h k
          rw [Memory.read_below (m := (k', v') :: m') (a := k)
            (by simp only [List.mem_cons, forall_eq_or_imp]; exact ⟨hlt, fun c hc => lt_trans hlt (h1' c hc)⟩)] at this
          simp only [Memory.read, if_true] at this
          exact absurd this hv
        · exact heq
        · have := h k'
          rw [Memory.read_below (m := (k, v) :: m) (a := k')
            (by simp only [List.mem_cons, forall_eq_or_imp]; exact ⟨hgt, fun c hc => lt_trans hgt (h1 c hc)⟩)] at this
          simp only [Memory.read, if_true] at this
          exact absurd this.symm hv'
      subst hkk
      have hvv : v = v' := by simpa [Memory.read] using h k
      subst hvv
      have : m = m' := ih h2 h2' fun x => by
        by_cases hx : k = x
        · subst hx
          rw [Memory.read_below h1, Memory.read_below h1']
        · simpa [Memory.read, hx] using h x
      rw [this]

@[simp] theorem State.dataSlice_length (s : State) (a n : Nat) : (s.dataSlice a n).length = n := by
  simp [State.dataSlice]

/-- A slice of DATA depends on DATA alone. -/
theorem State.dataSlice_congr {s t : State} (h : t.data = s.data) (a n : Nat) : t.dataSlice a n = s.dataSlice a n := by
  simp [State.dataSlice, h]

@[simp] theorem freeBytes_length (d n : Nat) : (freeBytes d n).length = n := by simp [freeBytes]

@[simp] theorem wordBytes_length (w : Word) : (wordBytes w).length = 4 := rfl

end Sys2Proof.Machine
end

