-- ==== Sys2Proof/Laws/State.lean ====
section
/-! SUPPORT. One lemma per field per update of the state, true by rfl, so that no proof unfolds a record update. -/

namespace Sys2Proof.Machine

variable (s : State)

/-! ### State.setPc -/

@[simp] theorem State.setPc_params (p : Pc) : (s.setPc p).params = s.params := rfl
@[simp] theorem State.setPc_cmdreg (p : Pc) : (s.setPc p).cmdreg = s.cmdreg := rfl
@[simp] theorem State.setPc_status (p : Pc) : (s.setPc p).status = s.status := rfl
@[simp] theorem State.setPc_result (p : Pc) : (s.setPc p).result = s.result := rfl
@[simp] theorem State.setPc_errinfo (p : Pc) : (s.setPc p).errinfo = s.errinfo := rfl
@[simp] theorem State.setPc_cc (p : Pc) : (s.setPc p).cc = s.cc := rfl
@[simp] theorem State.setPc_devsel (p : Pc) : (s.setPc p).devsel = s.devsel := rfl
@[simp] theorem State.setPc_data (p : Pc) : (s.setPc p).data = s.data := rfl
@[simp] theorem State.setPc_pc (p : Pc) : (s.setPc p).pc = p := rfl
@[simp] theorem State.setPc_locals (p : Pc) : (s.setPc p).locals = s.locals := rfl
@[simp] theorem State.setPc_trace (p : Pc) : (s.setPc p).trace = s.trace := rfl
@[simp] theorem State.setPc_writeAnswers (p : Pc) : (s.setPc p).writeAnswers = s.writeAnswers := rfl
@[simp] theorem State.setPc_readAnswers (p : Pc) : (s.setPc p).readAnswers = s.readAnswers := rfl
@[simp] theorem State.setPc_draws (p : Pc) : (s.setPc p).draws = s.draws := rfl
@[simp] theorem State.setPc_answerDraws (p : Pc) : (s.setPc p).answerDraws = s.answerDraws := rfl
@[simp] theorem State.setPc_hostRead (p : Pc) : (s.setPc p).hostRead = s.hostRead := rfl
@[simp] theorem State.setPc_schedule (p : Pc) : (s.setPc p).schedule = s.schedule := rfl

/-! ### State.setLabel -/

@[simp] theorem State.setLabel_params (l : Label) : (s.setLabel l).params = s.params := rfl
@[simp] theorem State.setLabel_cmdreg (l : Label) : (s.setLabel l).cmdreg = s.cmdreg := rfl
@[simp] theorem State.setLabel_status (l : Label) : (s.setLabel l).status = s.status := rfl
@[simp] theorem State.setLabel_result (l : Label) : (s.setLabel l).result = s.result := rfl
@[simp] theorem State.setLabel_errinfo (l : Label) : (s.setLabel l).errinfo = s.errinfo := rfl
@[simp] theorem State.setLabel_cc (l : Label) : (s.setLabel l).cc = s.cc := rfl
@[simp] theorem State.setLabel_devsel (l : Label) : (s.setLabel l).devsel = s.devsel := rfl
@[simp] theorem State.setLabel_data (l : Label) : (s.setLabel l).data = s.data := rfl
@[simp] theorem State.setLabel_pc (l : Label) : (s.setLabel l).pc = .resume l := rfl
@[simp] theorem State.setLabel_locals (l : Label) : (s.setLabel l).locals = s.locals := rfl
@[simp] theorem State.setLabel_trace (l : Label) : (s.setLabel l).trace = s.trace := rfl
@[simp] theorem State.setLabel_writeAnswers (l : Label) : (s.setLabel l).writeAnswers = s.writeAnswers := rfl
@[simp] theorem State.setLabel_readAnswers (l : Label) : (s.setLabel l).readAnswers = s.readAnswers := rfl
@[simp] theorem State.setLabel_draws (l : Label) : (s.setLabel l).draws = s.draws := rfl
@[simp] theorem State.setLabel_answerDraws (l : Label) : (s.setLabel l).answerDraws = s.answerDraws := rfl
@[simp] theorem State.setLabel_hostRead (l : Label) : (s.setLabel l).hostRead = s.hostRead := rfl
@[simp] theorem State.setLabel_schedule (l : Label) : (s.setLabel l).schedule = s.schedule := rfl

/-! ### State.setStatus -/

@[simp] theorem State.setStatus_params (st : Status) : (s.setStatus st).params = s.params := rfl
@[simp] theorem State.setStatus_cmdreg (st : Status) : (s.setStatus st).cmdreg = s.cmdreg := rfl
@[simp] theorem State.setStatus_status (st : Status) : (s.setStatus st).status = st := rfl
@[simp] theorem State.setStatus_result (st : Status) : (s.setStatus st).result = s.result := rfl
@[simp] theorem State.setStatus_errinfo (st : Status) : (s.setStatus st).errinfo = s.errinfo := rfl
@[simp] theorem State.setStatus_cc (st : Status) : (s.setStatus st).cc = s.cc := rfl
@[simp] theorem State.setStatus_devsel (st : Status) : (s.setStatus st).devsel = s.devsel := rfl
@[simp] theorem State.setStatus_data (st : Status) : (s.setStatus st).data = s.data := rfl
@[simp] theorem State.setStatus_pc (st : Status) : (s.setStatus st).pc = s.pc := rfl
@[simp] theorem State.setStatus_locals (st : Status) : (s.setStatus st).locals = s.locals := rfl
@[simp] theorem State.setStatus_trace (st : Status) : (s.setStatus st).trace = s.trace := rfl
@[simp] theorem State.setStatus_writeAnswers (st : Status) : (s.setStatus st).writeAnswers = s.writeAnswers := rfl
@[simp] theorem State.setStatus_readAnswers (st : Status) : (s.setStatus st).readAnswers = s.readAnswers := rfl
@[simp] theorem State.setStatus_draws (st : Status) : (s.setStatus st).draws = s.draws := rfl
@[simp] theorem State.setStatus_answerDraws (st : Status) : (s.setStatus st).answerDraws = s.answerDraws := rfl
@[simp] theorem State.setStatus_hostRead (st : Status) : (s.setStatus st).hostRead = s.hostRead := rfl
@[simp] theorem State.setStatus_schedule (st : Status) : (s.setStatus st).schedule = s.schedule := rfl

/-! ### State.setPState -/

@[simp] theorem State.setPState_params (p : PState) : (s.setPState p).params = s.params := rfl
@[simp] theorem State.setPState_cmdreg (p : PState) : (s.setPState p).cmdreg = s.cmdreg := rfl
@[simp] theorem State.setPState_status (p : PState) : (s.setPState p).status = { s.status with pstate := p } := rfl
@[simp] theorem State.setPState_result (p : PState) : (s.setPState p).result = s.result := rfl
@[simp] theorem State.setPState_errinfo (p : PState) : (s.setPState p).errinfo = s.errinfo := rfl
@[simp] theorem State.setPState_cc (p : PState) : (s.setPState p).cc = s.cc := rfl
@[simp] theorem State.setPState_devsel (p : PState) : (s.setPState p).devsel = s.devsel := rfl
@[simp] theorem State.setPState_data (p : PState) : (s.setPState p).data = s.data := rfl
@[simp] theorem State.setPState_pc (p : PState) : (s.setPState p).pc = s.pc := rfl
@[simp] theorem State.setPState_locals (p : PState) : (s.setPState p).locals = s.locals := rfl
@[simp] theorem State.setPState_trace (p : PState) : (s.setPState p).trace = s.trace := rfl
@[simp] theorem State.setPState_writeAnswers (p : PState) : (s.setPState p).writeAnswers = s.writeAnswers := rfl
@[simp] theorem State.setPState_readAnswers (p : PState) : (s.setPState p).readAnswers = s.readAnswers := rfl
@[simp] theorem State.setPState_draws (p : PState) : (s.setPState p).draws = s.draws := rfl
@[simp] theorem State.setPState_answerDraws (p : PState) : (s.setPState p).answerDraws = s.answerDraws := rfl
@[simp] theorem State.setPState_hostRead (p : PState) : (s.setPState p).hostRead = s.hostRead := rfl
@[simp] theorem State.setPState_schedule (p : PState) : (s.setPState p).schedule = s.schedule := rfl

/-! ### State.setResult -/

@[simp] theorem State.setResult_params (r : Word) : (s.setResult r).params = s.params := rfl
@[simp] theorem State.setResult_cmdreg (r : Word) : (s.setResult r).cmdreg = s.cmdreg := rfl
@[simp] theorem State.setResult_status (r : Word) : (s.setResult r).status = s.status := rfl
@[simp] theorem State.setResult_result (r : Word) : (s.setResult r).result = r := rfl
@[simp] theorem State.setResult_errinfo (r : Word) : (s.setResult r).errinfo = s.errinfo := rfl
@[simp] theorem State.setResult_cc (r : Word) : (s.setResult r).cc = s.cc := rfl
@[simp] theorem State.setResult_devsel (r : Word) : (s.setResult r).devsel = s.devsel := rfl
@[simp] theorem State.setResult_data (r : Word) : (s.setResult r).data = s.data := rfl
@[simp] theorem State.setResult_pc (r : Word) : (s.setResult r).pc = s.pc := rfl
@[simp] theorem State.setResult_locals (r : Word) : (s.setResult r).locals = s.locals := rfl
@[simp] theorem State.setResult_trace (r : Word) : (s.setResult r).trace = s.trace := rfl
@[simp] theorem State.setResult_writeAnswers (r : Word) : (s.setResult r).writeAnswers = s.writeAnswers := rfl
@[simp] theorem State.setResult_readAnswers (r : Word) : (s.setResult r).readAnswers = s.readAnswers := rfl
@[simp] theorem State.setResult_draws (r : Word) : (s.setResult r).draws = s.draws := rfl
@[simp] theorem State.setResult_answerDraws (r : Word) : (s.setResult r).answerDraws = s.answerDraws := rfl
@[simp] theorem State.setResult_hostRead (r : Word) : (s.setResult r).hostRead = s.hostRead := rfl
@[simp] theorem State.setResult_schedule (r : Word) : (s.setResult r).schedule = s.schedule := rfl

/-! ### State.setErrInfo -/

@[simp] theorem State.setErrInfo_params (e : ErrInfo) : (s.setErrInfo e).params = s.params := rfl
@[simp] theorem State.setErrInfo_cmdreg (e : ErrInfo) : (s.setErrInfo e).cmdreg = s.cmdreg := rfl
@[simp] theorem State.setErrInfo_status (e : ErrInfo) : (s.setErrInfo e).status = s.status := rfl
@[simp] theorem State.setErrInfo_result (e : ErrInfo) : (s.setErrInfo e).result = s.result := rfl
@[simp] theorem State.setErrInfo_errinfo (e : ErrInfo) : (s.setErrInfo e).errinfo = e := rfl
@[simp] theorem State.setErrInfo_cc (e : ErrInfo) : (s.setErrInfo e).cc = s.cc := rfl
@[simp] theorem State.setErrInfo_devsel (e : ErrInfo) : (s.setErrInfo e).devsel = s.devsel := rfl
@[simp] theorem State.setErrInfo_data (e : ErrInfo) : (s.setErrInfo e).data = s.data := rfl
@[simp] theorem State.setErrInfo_pc (e : ErrInfo) : (s.setErrInfo e).pc = s.pc := rfl
@[simp] theorem State.setErrInfo_locals (e : ErrInfo) : (s.setErrInfo e).locals = s.locals := rfl
@[simp] theorem State.setErrInfo_trace (e : ErrInfo) : (s.setErrInfo e).trace = s.trace := rfl
@[simp] theorem State.setErrInfo_writeAnswers (e : ErrInfo) : (s.setErrInfo e).writeAnswers = s.writeAnswers := rfl
@[simp] theorem State.setErrInfo_readAnswers (e : ErrInfo) : (s.setErrInfo e).readAnswers = s.readAnswers := rfl
@[simp] theorem State.setErrInfo_draws (e : ErrInfo) : (s.setErrInfo e).draws = s.draws := rfl
@[simp] theorem State.setErrInfo_answerDraws (e : ErrInfo) : (s.setErrInfo e).answerDraws = s.answerDraws := rfl
@[simp] theorem State.setErrInfo_hostRead (e : ErrInfo) : (s.setErrInfo e).hostRead = s.hostRead := rfl
@[simp] theorem State.setErrInfo_schedule (e : ErrInfo) : (s.setErrInfo e).schedule = s.schedule := rfl

/-! ### State.setData -/

@[simp] theorem State.setData_params (m : Memory) : (s.setData m).params = s.params := rfl
@[simp] theorem State.setData_cmdreg (m : Memory) : (s.setData m).cmdreg = s.cmdreg := rfl
@[simp] theorem State.setData_status (m : Memory) : (s.setData m).status = s.status := rfl
@[simp] theorem State.setData_result (m : Memory) : (s.setData m).result = s.result := rfl
@[simp] theorem State.setData_errinfo (m : Memory) : (s.setData m).errinfo = s.errinfo := rfl
@[simp] theorem State.setData_cc (m : Memory) : (s.setData m).cc = s.cc := rfl
@[simp] theorem State.setData_devsel (m : Memory) : (s.setData m).devsel = s.devsel := rfl
@[simp] theorem State.setData_data (m : Memory) : (s.setData m).data = m := rfl
@[simp] theorem State.setData_pc (m : Memory) : (s.setData m).pc = s.pc := rfl
@[simp] theorem State.setData_locals (m : Memory) : (s.setData m).locals = s.locals := rfl
@[simp] theorem State.setData_trace (m : Memory) : (s.setData m).trace = s.trace := rfl
@[simp] theorem State.setData_writeAnswers (m : Memory) : (s.setData m).writeAnswers = s.writeAnswers := rfl
@[simp] theorem State.setData_readAnswers (m : Memory) : (s.setData m).readAnswers = s.readAnswers := rfl
@[simp] theorem State.setData_draws (m : Memory) : (s.setData m).draws = s.draws := rfl
@[simp] theorem State.setData_answerDraws (m : Memory) : (s.setData m).answerDraws = s.answerDraws := rfl
@[simp] theorem State.setData_hostRead (m : Memory) : (s.setData m).hostRead = s.hostRead := rfl
@[simp] theorem State.setData_schedule (m : Memory) : (s.setData m).schedule = s.schedule := rfl

/-! ### State.setLocals -/

@[simp] theorem State.setLocals_params (l : Locals) : (s.setLocals l).params = s.params := rfl
@[simp] theorem State.setLocals_cmdreg (l : Locals) : (s.setLocals l).cmdreg = s.cmdreg := rfl
@[simp] theorem State.setLocals_status (l : Locals) : (s.setLocals l).status = s.status := rfl
@[simp] theorem State.setLocals_result (l : Locals) : (s.setLocals l).result = s.result := rfl
@[simp] theorem State.setLocals_errinfo (l : Locals) : (s.setLocals l).errinfo = s.errinfo := rfl
@[simp] theorem State.setLocals_cc (l : Locals) : (s.setLocals l).cc = s.cc := rfl
@[simp] theorem State.setLocals_devsel (l : Locals) : (s.setLocals l).devsel = s.devsel := rfl
@[simp] theorem State.setLocals_data (l : Locals) : (s.setLocals l).data = s.data := rfl
@[simp] theorem State.setLocals_pc (l : Locals) : (s.setLocals l).pc = s.pc := rfl
@[simp] theorem State.setLocals_locals (l : Locals) : (s.setLocals l).locals = l := rfl
@[simp] theorem State.setLocals_trace (l : Locals) : (s.setLocals l).trace = s.trace := rfl
@[simp] theorem State.setLocals_writeAnswers (l : Locals) : (s.setLocals l).writeAnswers = s.writeAnswers := rfl
@[simp] theorem State.setLocals_readAnswers (l : Locals) : (s.setLocals l).readAnswers = s.readAnswers := rfl
@[simp] theorem State.setLocals_draws (l : Locals) : (s.setLocals l).draws = s.draws := rfl
@[simp] theorem State.setLocals_answerDraws (l : Locals) : (s.setLocals l).answerDraws = s.answerDraws := rfl
@[simp] theorem State.setLocals_hostRead (l : Locals) : (s.setLocals l).hostRead = s.hostRead := rfl
@[simp] theorem State.setLocals_schedule (l : Locals) : (s.setLocals l).schedule = s.schedule := rfl

/-! ### State.setCc -/

@[simp] theorem State.setCc_params (c : ControlCode) : (s.setCc c).params = s.params := rfl
@[simp] theorem State.setCc_cmdreg (c : ControlCode) : (s.setCc c).cmdreg = s.cmdreg := rfl
@[simp] theorem State.setCc_status (c : ControlCode) : (s.setCc c).status = s.status := rfl
@[simp] theorem State.setCc_result (c : ControlCode) : (s.setCc c).result = s.result := rfl
@[simp] theorem State.setCc_errinfo (c : ControlCode) : (s.setCc c).errinfo = s.errinfo := rfl
@[simp] theorem State.setCc_cc (c : ControlCode) : (s.setCc c).cc = c := rfl
@[simp] theorem State.setCc_devsel (c : ControlCode) : (s.setCc c).devsel = s.devsel := rfl
@[simp] theorem State.setCc_data (c : ControlCode) : (s.setCc c).data = s.data := rfl
@[simp] theorem State.setCc_pc (c : ControlCode) : (s.setCc c).pc = s.pc := rfl
@[simp] theorem State.setCc_locals (c : ControlCode) : (s.setCc c).locals = s.locals := rfl
@[simp] theorem State.setCc_trace (c : ControlCode) : (s.setCc c).trace = s.trace := rfl
@[simp] theorem State.setCc_writeAnswers (c : ControlCode) : (s.setCc c).writeAnswers = s.writeAnswers := rfl
@[simp] theorem State.setCc_readAnswers (c : ControlCode) : (s.setCc c).readAnswers = s.readAnswers := rfl
@[simp] theorem State.setCc_draws (c : ControlCode) : (s.setCc c).draws = s.draws := rfl
@[simp] theorem State.setCc_answerDraws (c : ControlCode) : (s.setCc c).answerDraws = s.answerDraws := rfl
@[simp] theorem State.setCc_hostRead (c : ControlCode) : (s.setCc c).hostRead = s.hostRead := rfl
@[simp] theorem State.setCc_schedule (c : ControlCode) : (s.setCc c).schedule = s.schedule := rfl

/-! ### State.setDevsel -/

@[simp] theorem State.setDevsel_params (k : Byte) : (s.setDevsel k).params = s.params := rfl
@[simp] theorem State.setDevsel_cmdreg (k : Byte) : (s.setDevsel k).cmdreg = s.cmdreg := rfl
@[simp] theorem State.setDevsel_status (k : Byte) : (s.setDevsel k).status = s.status := rfl
@[simp] theorem State.setDevsel_result (k : Byte) : (s.setDevsel k).result = s.result := rfl
@[simp] theorem State.setDevsel_errinfo (k : Byte) : (s.setDevsel k).errinfo = s.errinfo := rfl
@[simp] theorem State.setDevsel_cc (k : Byte) : (s.setDevsel k).cc = s.cc := rfl
@[simp] theorem State.setDevsel_devsel (k : Byte) : (s.setDevsel k).devsel = k := rfl
@[simp] theorem State.setDevsel_data (k : Byte) : (s.setDevsel k).data = s.data := rfl
@[simp] theorem State.setDevsel_pc (k : Byte) : (s.setDevsel k).pc = s.pc := rfl
@[simp] theorem State.setDevsel_locals (k : Byte) : (s.setDevsel k).locals = s.locals := rfl
@[simp] theorem State.setDevsel_trace (k : Byte) : (s.setDevsel k).trace = s.trace := rfl
@[simp] theorem State.setDevsel_writeAnswers (k : Byte) : (s.setDevsel k).writeAnswers = s.writeAnswers := rfl
@[simp] theorem State.setDevsel_readAnswers (k : Byte) : (s.setDevsel k).readAnswers = s.readAnswers := rfl
@[simp] theorem State.setDevsel_draws (k : Byte) : (s.setDevsel k).draws = s.draws := rfl
@[simp] theorem State.setDevsel_answerDraws (k : Byte) : (s.setDevsel k).answerDraws = s.answerDraws := rfl
@[simp] theorem State.setDevsel_hostRead (k : Byte) : (s.setDevsel k).hostRead = s.hostRead := rfl
@[simp] theorem State.setDevsel_schedule (k : Byte) : (s.setDevsel k).schedule = s.schedule := rfl

/-! ### State.setBuf -/

@[simp] theorem State.setBuf_params (xs : List Byte) : (s.setBuf xs).params = s.params := rfl
@[simp] theorem State.setBuf_cmdreg (xs : List Byte) : (s.setBuf xs).cmdreg = s.cmdreg := rfl
@[simp] theorem State.setBuf_status (xs : List Byte) : (s.setBuf xs).status = s.status := rfl
@[simp] theorem State.setBuf_result (xs : List Byte) : (s.setBuf xs).result = s.result := rfl
@[simp] theorem State.setBuf_errinfo (xs : List Byte) : (s.setBuf xs).errinfo = s.errinfo := rfl
@[simp] theorem State.setBuf_cc (xs : List Byte) : (s.setBuf xs).cc = s.cc := rfl
@[simp] theorem State.setBuf_devsel (xs : List Byte) : (s.setBuf xs).devsel = s.devsel := rfl
@[simp] theorem State.setBuf_data (xs : List Byte) : (s.setBuf xs).data = s.data := rfl
@[simp] theorem State.setBuf_pc (xs : List Byte) : (s.setBuf xs).pc = s.pc := rfl
@[simp] theorem State.setBuf_locals (xs : List Byte) : (s.setBuf xs).locals = { s.locals with buf := xs } := rfl
@[simp] theorem State.setBuf_trace (xs : List Byte) : (s.setBuf xs).trace = s.trace := rfl
@[simp] theorem State.setBuf_writeAnswers (xs : List Byte) : (s.setBuf xs).writeAnswers = s.writeAnswers := rfl
@[simp] theorem State.setBuf_readAnswers (xs : List Byte) : (s.setBuf xs).readAnswers = s.readAnswers := rfl
@[simp] theorem State.setBuf_draws (xs : List Byte) : (s.setBuf xs).draws = s.draws := rfl
@[simp] theorem State.setBuf_answerDraws (xs : List Byte) : (s.setBuf xs).answerDraws = s.answerDraws := rfl
@[simp] theorem State.setBuf_hostRead (xs : List Byte) : (s.setBuf xs).hostRead = s.hostRead := rfl
@[simp] theorem State.setBuf_schedule (xs : List Byte) : (s.setBuf xs).schedule = s.schedule := rfl

/-! ### State.record -/

@[simp] theorem State.record_params (e : Event) : (s.record e).params = s.params := rfl
@[simp] theorem State.record_cmdreg (e : Event) : (s.record e).cmdreg = s.cmdreg := rfl
@[simp] theorem State.record_status (e : Event) : (s.record e).status = s.status := rfl
@[simp] theorem State.record_result (e : Event) : (s.record e).result = s.result := rfl
@[simp] theorem State.record_errinfo (e : Event) : (s.record e).errinfo = s.errinfo := rfl
@[simp] theorem State.record_cc (e : Event) : (s.record e).cc = s.cc := rfl
@[simp] theorem State.record_devsel (e : Event) : (s.record e).devsel = s.devsel := rfl
@[simp] theorem State.record_data (e : Event) : (s.record e).data = s.data := rfl
@[simp] theorem State.record_pc (e : Event) : (s.record e).pc = s.pc := rfl
@[simp] theorem State.record_locals (e : Event) : (s.record e).locals = s.locals := rfl
@[simp] theorem State.record_trace (e : Event) : (s.record e).trace = s.trace ++ [e] := rfl
@[simp] theorem State.record_writeAnswers (e : Event) : (s.record e).writeAnswers = s.writeAnswers := rfl
@[simp] theorem State.record_readAnswers (e : Event) : (s.record e).readAnswers = s.readAnswers := rfl
@[simp] theorem State.record_draws (e : Event) : (s.record e).draws = s.draws := rfl
@[simp] theorem State.record_answerDraws (e : Event) : (s.record e).answerDraws = s.answerDraws := rfl
@[simp] theorem State.record_hostRead (e : Event) : (s.record e).hostRead = s.hostRead := rfl
@[simp] theorem State.record_schedule (e : Event) : (s.record e).schedule = s.schedule := rfl

/-! ### State.storeData -/

@[simp] theorem State.storeData_params (xs : List Byte) : (s.storeData xs).params = s.params := rfl
@[simp] theorem State.storeData_cmdreg (xs : List Byte) : (s.storeData xs).cmdreg = s.cmdreg := rfl
@[simp] theorem State.storeData_status (xs : List Byte) : (s.storeData xs).status = s.status := rfl
@[simp] theorem State.storeData_result (xs : List Byte) : (s.storeData xs).result = s.result := rfl
@[simp] theorem State.storeData_errinfo (xs : List Byte) : (s.storeData xs).errinfo = s.errinfo := rfl
@[simp] theorem State.storeData_cc (xs : List Byte) : (s.storeData xs).cc = s.cc := rfl
@[simp] theorem State.storeData_devsel (xs : List Byte) : (s.storeData xs).devsel = s.devsel := rfl
@[simp] theorem State.storeData_data (xs : List Byte) : (s.storeData xs).data = s.data.writeList 0 xs := rfl
@[simp] theorem State.storeData_pc (xs : List Byte) : (s.storeData xs).pc = s.pc := rfl
@[simp] theorem State.storeData_locals (xs : List Byte) : (s.storeData xs).locals = s.locals := rfl
@[simp] theorem State.storeData_trace (xs : List Byte) : (s.storeData xs).trace = s.trace := rfl
@[simp] theorem State.storeData_writeAnswers (xs : List Byte) : (s.storeData xs).writeAnswers = s.writeAnswers := rfl
@[simp] theorem State.storeData_readAnswers (xs : List Byte) : (s.storeData xs).readAnswers = s.readAnswers := rfl
@[simp] theorem State.storeData_draws (xs : List Byte) : (s.storeData xs).draws = s.draws := rfl
@[simp] theorem State.storeData_answerDraws (xs : List Byte) : (s.storeData xs).answerDraws = s.answerDraws := rfl
@[simp] theorem State.storeData_hostRead (xs : List Byte) : (s.storeData xs).hostRead = s.hostRead := rfl
@[simp] theorem State.storeData_schedule (xs : List Byte) : (s.storeData xs).schedule = s.schedule := rfl

/-! ### State.setHostRead -/

@[simp] theorem State.setHostRead_params (w : Word) : (s.setHostRead w).params = s.params := rfl
@[simp] theorem State.setHostRead_cmdreg (w : Word) : (s.setHostRead w).cmdreg = s.cmdreg := rfl
@[simp] theorem State.setHostRead_status (w : Word) : (s.setHostRead w).status = s.status := rfl
@[simp] theorem State.setHostRead_result (w : Word) : (s.setHostRead w).result = s.result := rfl
@[simp] theorem State.setHostRead_errinfo (w : Word) : (s.setHostRead w).errinfo = s.errinfo := rfl
@[simp] theorem State.setHostRead_cc (w : Word) : (s.setHostRead w).cc = s.cc := rfl
@[simp] theorem State.setHostRead_devsel (w : Word) : (s.setHostRead w).devsel = s.devsel := rfl
@[simp] theorem State.setHostRead_data (w : Word) : (s.setHostRead w).data = s.data := rfl
@[simp] theorem State.setHostRead_pc (w : Word) : (s.setHostRead w).pc = s.pc := rfl
@[simp] theorem State.setHostRead_locals (w : Word) : (s.setHostRead w).locals = s.locals := rfl
@[simp] theorem State.setHostRead_trace (w : Word) : (s.setHostRead w).trace = s.trace := rfl
@[simp] theorem State.setHostRead_writeAnswers (w : Word) : (s.setHostRead w).writeAnswers = s.writeAnswers := rfl
@[simp] theorem State.setHostRead_readAnswers (w : Word) : (s.setHostRead w).readAnswers = s.readAnswers := rfl
@[simp] theorem State.setHostRead_draws (w : Word) : (s.setHostRead w).draws = s.draws := rfl
@[simp] theorem State.setHostRead_answerDraws (w : Word) : (s.setHostRead w).answerDraws = s.answerDraws := rfl
@[simp] theorem State.setHostRead_hostRead (w : Word) : (s.setHostRead w).hostRead = w := rfl
@[simp] theorem State.setHostRead_schedule (w : Word) : (s.setHostRead w).schedule = s.schedule := rfl

/-! ### busWait -/

@[simp] theorem busWait_params (k : WaitKind) : (busWait k s).params = s.params := rfl
@[simp] theorem busWait_cmdreg (k : WaitKind) : (busWait k s).cmdreg = s.cmdreg := rfl
@[simp] theorem busWait_status (k : WaitKind) : (busWait k s).status = s.status := rfl
@[simp] theorem busWait_result (k : WaitKind) : (busWait k s).result = s.result := rfl
@[simp] theorem busWait_errinfo (k : WaitKind) : (busWait k s).errinfo = s.errinfo := rfl
@[simp] theorem busWait_cc (k : WaitKind) : (busWait k s).cc = s.cc := rfl
@[simp] theorem busWait_devsel (k : WaitKind) : (busWait k s).devsel = s.devsel := rfl
@[simp] theorem busWait_data (k : WaitKind) : (busWait k s).data = s.data := rfl
@[simp] theorem busWait_pc (k : WaitKind) : (busWait k s).pc = s.pc := rfl
@[simp] theorem busWait_locals (k : WaitKind) : (busWait k s).locals = s.locals := rfl
@[simp] theorem busWait_trace (k : WaitKind) : (busWait k s).trace = s.trace ++ [.wait k] := rfl
@[simp] theorem busWait_writeAnswers (k : WaitKind) : (busWait k s).writeAnswers = s.writeAnswers := rfl
@[simp] theorem busWait_readAnswers (k : WaitKind) : (busWait k s).readAnswers = s.readAnswers := rfl
@[simp] theorem busWait_draws (k : WaitKind) : (busWait k s).draws = s.draws := rfl
@[simp] theorem busWait_answerDraws (k : WaitKind) : (busWait k s).answerDraws = s.answerDraws := rfl
@[simp] theorem busWait_hostRead (k : WaitKind) : (busWait k s).hostRead = s.hostRead := rfl
@[simp] theorem busWait_schedule (k : WaitKind) : (busWait k s).schedule = s.schedule := rfl

/-! ### overrun -/

@[simp] theorem overrun_params : (overrun s).params = s.params := rfl
@[simp] theorem overrun_cmdreg : (overrun s).cmdreg = s.cmdreg := rfl
@[simp] theorem overrun_status : (overrun s).status = { s.status with overrun := true } := rfl
@[simp] theorem overrun_result : (overrun s).result = s.result := rfl
@[simp] theorem overrun_errinfo : (overrun s).errinfo = s.errinfo := rfl
@[simp] theorem overrun_cc : (overrun s).cc = s.cc := rfl
@[simp] theorem overrun_devsel : (overrun s).devsel = s.devsel := rfl
@[simp] theorem overrun_data : (overrun s).data = s.data := rfl
@[simp] theorem overrun_pc : (overrun s).pc = s.pc := rfl
@[simp] theorem overrun_locals : (overrun s).locals = s.locals := rfl
@[simp] theorem overrun_trace : (overrun s).trace = s.trace := rfl
@[simp] theorem overrun_writeAnswers : (overrun s).writeAnswers = s.writeAnswers := rfl
@[simp] theorem overrun_readAnswers : (overrun s).readAnswers = s.readAnswers := rfl
@[simp] theorem overrun_draws : (overrun s).draws = s.draws := rfl
@[simp] theorem overrun_answerDraws : (overrun s).answerDraws = s.answerDraws := rfl
@[simp] theorem overrun_hostRead : (overrun s).hostRead = s.hostRead := rfl
@[simp] theorem overrun_schedule : (overrun s).schedule = s.schedule := rfl

/-! ### beginPage -/

@[simp] theorem beginPage_params (sp : Space) (p : Page) : (beginPage sp p s).params = s.params := rfl
@[simp] theorem beginPage_cmdreg (sp : Space) (p : Page) : (beginPage sp p s).cmdreg = s.cmdreg := rfl
@[simp] theorem beginPage_status (sp : Space) (p : Page) : (beginPage sp p s).status = { s.status with ppage := p, pspace := sp, pstate := .check } := rfl
@[simp] theorem beginPage_result (sp : Space) (p : Page) : (beginPage sp p s).result = s.result := rfl
@[simp] theorem beginPage_errinfo (sp : Space) (p : Page) : (beginPage sp p s).errinfo = s.errinfo := rfl
@[simp] theorem beginPage_cc (sp : Space) (p : Page) : (beginPage sp p s).cc = s.cc := rfl
@[simp] theorem beginPage_devsel (sp : Space) (p : Page) : (beginPage sp p s).devsel = s.devsel := rfl
@[simp] theorem beginPage_data (sp : Space) (p : Page) : (beginPage sp p s).data = s.data := rfl
@[simp] theorem beginPage_pc (sp : Space) (p : Page) : (beginPage sp p s).pc = s.pc := rfl
@[simp] theorem beginPage_locals (sp : Space) (p : Page) : (beginPage sp p s).locals = s.locals := rfl
@[simp] theorem beginPage_trace (sp : Space) (p : Page) : (beginPage sp p s).trace = s.trace := rfl
@[simp] theorem beginPage_writeAnswers (sp : Space) (p : Page) : (beginPage sp p s).writeAnswers = s.writeAnswers := rfl
@[simp] theorem beginPage_readAnswers (sp : Space) (p : Page) : (beginPage sp p s).readAnswers = s.readAnswers := rfl
@[simp] theorem beginPage_draws (sp : Space) (p : Page) : (beginPage sp p s).draws = s.draws := rfl
@[simp] theorem beginPage_answerDraws (sp : Space) (p : Page) : (beginPage sp p s).answerDraws = s.answerDraws := rfl
@[simp] theorem beginPage_hostRead (sp : Space) (p : Page) : (beginPage sp p s).hostRead = s.hostRead := rfl
@[simp] theorem beginPage_schedule (sp : Space) (p : Page) : (beginPage sp p s).schedule = s.schedule := rfl

/-! ### writeBitmaps -/

@[simp] theorem writeBitmaps_params : (writeBitmaps s).params = s.params := rfl
@[simp] theorem writeBitmaps_cmdreg : (writeBitmaps s).cmdreg = s.cmdreg := rfl
@[simp] theorem writeBitmaps_status : (writeBitmaps s).status = s.status := rfl
@[simp] theorem writeBitmaps_result : (writeBitmaps s).result = resultBitmaps s.locals.programmed s.locals.skipped := rfl
@[simp] theorem writeBitmaps_errinfo : (writeBitmaps s).errinfo = s.errinfo := rfl
@[simp] theorem writeBitmaps_cc : (writeBitmaps s).cc = s.cc := rfl
@[simp] theorem writeBitmaps_devsel : (writeBitmaps s).devsel = s.devsel := rfl
@[simp] theorem writeBitmaps_data : (writeBitmaps s).data = s.data := rfl
@[simp] theorem writeBitmaps_pc : (writeBitmaps s).pc = s.pc := rfl
@[simp] theorem writeBitmaps_locals : (writeBitmaps s).locals = s.locals := rfl
@[simp] theorem writeBitmaps_trace : (writeBitmaps s).trace = s.trace := rfl
@[simp] theorem writeBitmaps_writeAnswers : (writeBitmaps s).writeAnswers = s.writeAnswers := rfl
@[simp] theorem writeBitmaps_readAnswers : (writeBitmaps s).readAnswers = s.readAnswers := rfl
@[simp] theorem writeBitmaps_draws : (writeBitmaps s).draws = s.draws := rfl
@[simp] theorem writeBitmaps_answerDraws : (writeBitmaps s).answerDraws = s.answerDraws := rfl
@[simp] theorem writeBitmaps_hostRead : (writeBitmaps s).hostRead = s.hostRead := rfl
@[simp] theorem writeBitmaps_schedule : (writeBitmaps s).schedule = s.schedule := rfl

/-! ### finish -/

@[simp] theorem finish_params (r : Word) : (finish r s).params = s.params := rfl
@[simp] theorem finish_cmdreg (r : Word) : (finish r s).cmdreg = s.cmdreg := rfl
@[simp] theorem finish_status (r : Word) : (finish r s).status = finishedStatus s.status := rfl
@[simp] theorem finish_result (r : Word) : (finish r s).result = r := rfl
@[simp] theorem finish_errinfo (r : Word) : (finish r s).errinfo = s.errinfo := rfl
@[simp] theorem finish_cc (r : Word) : (finish r s).cc = s.cc := rfl
@[simp] theorem finish_devsel (r : Word) : (finish r s).devsel = s.devsel := rfl
@[simp] theorem finish_data (r : Word) : (finish r s).data = s.data := rfl
@[simp] theorem finish_pc (r : Word) : (finish r s).pc = .idle := rfl
@[simp] theorem finish_locals (r : Word) : (finish r s).locals = s.locals := rfl
@[simp] theorem finish_trace (r : Word) : (finish r s).trace = s.trace := rfl
@[simp] theorem finish_writeAnswers (r : Word) : (finish r s).writeAnswers = s.writeAnswers := rfl
@[simp] theorem finish_readAnswers (r : Word) : (finish r s).readAnswers = s.readAnswers := rfl
@[simp] theorem finish_draws (r : Word) : (finish r s).draws = s.draws := rfl
@[simp] theorem finish_answerDraws (r : Word) : (finish r s).answerDraws = s.answerDraws := rfl
@[simp] theorem finish_hostRead (r : Word) : (finish r s).hostRead = s.hostRead := rfl
@[simp] theorem finish_schedule (r : Word) : (finish r s).schedule = s.schedule := rfl

/-! ### raise -/

@[simp] theorem raise_params (e : Error) : (raise e s).params = s.params := rfl
@[simp] theorem raise_cmdreg (e : Error) : (raise e s).cmdreg = s.cmdreg := rfl
@[simp] theorem raise_status (e : Error) : (raise e s).status = raisedStatus e s.status := rfl
@[simp] theorem raise_result (e : Error) : (raise e s).result = s.result := rfl
@[simp] theorem raise_errinfo (e : Error) : (raise e s).errinfo = raisedErrInfo e s.status s.errinfo := rfl
@[simp] theorem raise_cc (e : Error) : (raise e s).cc = s.cc := rfl
@[simp] theorem raise_devsel (e : Error) : (raise e s).devsel = s.devsel := rfl
@[simp] theorem raise_data (e : Error) : (raise e s).data = s.data := rfl
@[simp] theorem raise_pc (e : Error) : (raise e s).pc = .idle := rfl
@[simp] theorem raise_locals (e : Error) : (raise e s).locals = s.locals := rfl
@[simp] theorem raise_trace (e : Error) : (raise e s).trace = s.trace := rfl
@[simp] theorem raise_writeAnswers (e : Error) : (raise e s).writeAnswers = s.writeAnswers := rfl
@[simp] theorem raise_readAnswers (e : Error) : (raise e s).readAnswers = s.readAnswers := rfl
@[simp] theorem raise_draws (e : Error) : (raise e s).draws = s.draws := rfl
@[simp] theorem raise_answerDraws (e : Error) : (raise e s).answerDraws = s.answerDraws := rfl
@[simp] theorem raise_hostRead (e : Error) : (raise e s).hostRead = s.hostRead := rfl
@[simp] theorem raise_schedule (e : Error) : (raise e s).schedule = s.schedule := rfl

/-! ### accept -/

@[simp] theorem accept_params (w : Word) : (accept w s).params = s.params := rfl
@[simp] theorem accept_cmdreg (w : Word) : (accept w s).cmdreg = w := rfl
@[simp] theorem accept_status (w : Word) : (accept w s).status = acceptedStatus s.status := rfl
@[simp] theorem accept_result (w : Word) : (accept w s).result = 0 := rfl
@[simp] theorem accept_errinfo (w : Word) : (accept w s).errinfo = ErrInfo.zero := rfl
@[simp] theorem accept_cc (w : Word) : (accept w s).cc = s.cc := rfl
@[simp] theorem accept_devsel (w : Word) : (accept w s).devsel = s.devsel := rfl
@[simp] theorem accept_data (w : Word) : (accept w s).data = s.data := rfl
@[simp] theorem accept_pc (w : Word) : (accept w s).pc = .resume .start := rfl
@[simp] theorem accept_locals (w : Word) : (accept w s).locals = freeLocals s.draws := rfl
@[simp] theorem accept_trace (w : Word) : (accept w s).trace = s.trace := rfl
@[simp] theorem accept_writeAnswers (w : Word) : (accept w s).writeAnswers = s.writeAnswers := rfl
@[simp] theorem accept_readAnswers (w : Word) : (accept w s).readAnswers = s.readAnswers := rfl
@[simp] theorem accept_draws (w : Word) : (accept w s).draws = s.draws + freeLocalsSize := rfl
@[simp] theorem accept_answerDraws (w : Word) : (accept w s).answerDraws = s.answerDraws := rfl
@[simp] theorem accept_hostRead (w : Word) : (accept w s).hostRead = s.hostRead := rfl
@[simp] theorem accept_schedule (w : Word) : (accept w s).schedule = s.schedule := rfl

end Sys2Proof.Machine
end

