-- ==== Sys2Proof/Laws/Ops.lean ====
section
/-! SUPPORT. What each shared operation can do, said once. -/

namespace Sys2Proof.Machine

/-- `t` is `s` after one bus event: only the trace, the transport's answers and their counter have moved. -/
structure Moved (e : Event) (s t : State) : Prop where
  eq : ∃ ws rs n, t = { s with trace := s.trace ++ [e], writeAnswers := ws, readAnswers := rs, answerDraws := n }

section Moved

variable {e : Event} {s t : State} (h : Moved e s t)
include h

theorem Moved.params : t.params = s.params := by obtain ⟨_, _, _, rfl⟩ := h; rfl
theorem Moved.cmdreg : t.cmdreg = s.cmdreg := by obtain ⟨_, _, _, rfl⟩ := h; rfl
theorem Moved.status : t.status = s.status := by obtain ⟨_, _, _, rfl⟩ := h; rfl
theorem Moved.result : t.result = s.result := by obtain ⟨_, _, _, rfl⟩ := h; rfl
theorem Moved.errinfo : t.errinfo = s.errinfo := by obtain ⟨_, _, _, rfl⟩ := h; rfl
theorem Moved.cc : t.cc = s.cc := by obtain ⟨_, _, _, rfl⟩ := h; rfl
theorem Moved.devsel : t.devsel = s.devsel := by obtain ⟨_, _, _, rfl⟩ := h; rfl
theorem Moved.data : t.data = s.data := by obtain ⟨_, _, _, rfl⟩ := h; rfl
theorem Moved.pc : t.pc = s.pc := by obtain ⟨_, _, _, rfl⟩ := h; rfl
theorem Moved.locals : t.locals = s.locals := by obtain ⟨_, _, _, rfl⟩ := h; rfl
theorem Moved.trace : t.trace = s.trace ++ [e] := by obtain ⟨_, _, _, rfl⟩ := h; rfl
theorem Moved.draws : t.draws = s.draws := by obtain ⟨_, _, _, rfl⟩ := h; rfl
theorem Moved.hostRead : t.hostRead = s.hostRead := by obtain ⟨_, _, _, rfl⟩ := h; rfl
theorem Moved.schedule : t.schedule = s.schedule := by obtain ⟨_, _, _, rfl⟩ := h; rfl

end Moved

/-- A wait moves nothing but the trace. -/
theorem busWait_moved (k : WaitKind) (s : State) : Moved (.wait k) s (busWait k s) :=
  ⟨s.writeAnswers, s.readAnswers, s.answerDraws, rfl⟩

/-- Taking a write answer moves nothing but the script and the counter of answers. -/
theorem takeWriteAnswer_spec {s t : State} {ok : Bool} (h : takeWriteAnswer s = some (ok, t)) :
    ∃ ws n, t = { s with writeAnswers := ws, answerDraws := n } := by
  unfold takeWriteAnswer at h
  split at h
  · simp only [Option.some.injEq, Prod.mk.injEq] at h
    exact ⟨_, _, h.2.symm⟩
  · simp at h
  · split at h
    · simp only [Option.some.injEq, Prod.mk.injEq] at h
      exact ⟨_, _, h.2.symm⟩
    · simp at h

/-- A scripted write answer is the answer. -/
theorem takeWriteAnswer_script {s : State} {ok : Bool} {rest : List (Option Bool)}
    (h : s.writeAnswers = some ok :: rest) : takeWriteAnswer s = some (ok, { s with writeAnswers := rest }) := by
  unfold takeWriteAnswer
  rw [h]

/-- A write is never answered exactly when the script says so, or, with no script, the free value does (R41, R106). -/
theorem takeWriteAnswer_eq_none {s : State} : takeWriteAnswer s = none ↔
    (∃ rest, s.writeAnswers = none :: rest) ∨
    (s.writeAnswers = [] ∧ Config.freeWriteAnswer s.answerDraws = none) := by
  unfold takeWriteAnswer
  split
  · simp_all
  · simp_all
  · split <;> simp_all

/-- Taking a read answer moves nothing but the script and the counter of answers, and the reply has at most 256 bytes. -/
theorem takeReadAnswer_spec {s t : State} {r : ReadReply} (h : takeReadAnswer s = some (r, t)) :
    (∃ rs n, t = { s with readAnswers := rs, answerDraws := n }) ∧ ∃ r', r = boundReply r' := by
  unfold takeReadAnswer at h
  split at h
  · simp only [Option.some.injEq, Prod.mk.injEq] at h
    exact ⟨⟨_, _, h.2.symm⟩, ⟨_, h.1.symm⟩⟩
  · simp at h
  · split at h
    · simp only [Option.some.injEq, Prod.mk.injEq] at h
      exact ⟨⟨_, _, h.2.symm⟩, ⟨_, h.1.symm⟩⟩
    · simp at h

/-- A scripted read answer is the answer. -/
theorem takeReadAnswer_script {s : State} {r : ReadReply} {rest : List (Option ReadReply)}
    (h : s.readAnswers = some r :: rest) :
    takeReadAnswer s = some (boundReply r, { s with readAnswers := rest }) := by
  unfold takeReadAnswer
  rw [h]

/-- A read is never answered exactly when the script says so, or, with no script, the free value does (R41, R106). -/
theorem takeReadAnswer_eq_none {s : State} : takeReadAnswer s = none ↔
    (∃ rest, s.readAnswers = none :: rest) ∨
    (s.readAnswers = [] ∧ Config.freeReadAnswer s.answerDraws = none) := by
  unfold takeReadAnswer
  split
  · simp_all
  · simp_all
  · split <;> simp_all

/-- Everything a bus write can do: it records its event, and a true answer is one of a write within MAX_WRITE. -/
theorem busWrite_spec {a7 : Addr7} {bytes : List Byte} {s t : State} {ok : Bool}
    (h : busWrite a7 bytes s = some (ok, t)) :
    Moved (.write a7 bytes ok) s t ∧ (ok = true → bytes.length ≤ s.params.maxWrite) := by
  unfold busWrite at h
  split at h
  · rename_i hw
    obtain ⟨ws, n, rfl⟩ := takeWriteAnswer_spec hw
    simp only [Option.some.injEq, Prod.mk.injEq] at h
    obtain ⟨rfl, rfl⟩ := h
    exact ⟨⟨ws, s.readAnswers, n, rfl⟩, by simp⟩
  · simp at h

/-- A bus write does not answer exactly when the transport does not. -/
theorem busWrite_eq_none {a7 : Addr7} {bytes : List Byte} {s : State} :
    busWrite a7 bytes s = none ↔ takeWriteAnswer s = none := by
  unfold busWrite
  split <;> simp_all

/-- A bus write that the script answers. -/
theorem busWrite_script {a7 : Addr7} {bytes : List Byte} {s : State} {ok : Bool} {rest : List (Option Bool)}
    (h : s.writeAnswers = some ok :: rest) :
    busWrite a7 bytes s =
      some (ok && decide (bytes.length ≤ s.params.maxWrite),
        { s with writeAnswers := rest,
                 trace := s.trace ++ [.write a7 bytes (ok && decide (bytes.length ≤ s.params.maxWrite))] }) := by
  unfold busWrite
  rw [takeWriteAnswer_script h]
  rfl

/-- Everything a bus read can do: it records its event, and delivers at most 256 bytes. -/
theorem busRead_spec {a7 : Addr7} {n : Nat} {s t : State} {r : ReadReply} (h : busRead a7 n s = some (r, t)) :
    Moved (.read a7 n r) s t ∧ ∃ r', r = boundReply r' := by
  unfold busRead at h
  split at h
  · rename_i hr
    obtain ⟨⟨rs, d, rfl⟩, hb⟩ := takeReadAnswer_spec hr
    simp only [Option.some.injEq, Prod.mk.injEq] at h
    obtain ⟨rfl, rfl⟩ := h
    exact ⟨⟨s.writeAnswers, rs, d, rfl⟩, hb⟩
  · simp at h

/-- A bus read does not answer exactly when the transport does not. -/
theorem busRead_eq_none {a7 : Addr7} {n : Nat} {s : State} : busRead a7 n s = none ↔ takeReadAnswer s = none := by
  unfold busRead
  split <;> simp_all

/-- A bus read that the script answers. -/
theorem busRead_script {a7 : Addr7} {n : Nat} {s : State} {r : ReadReply} {rest : List (Option ReadReply)}
    (h : s.readAnswers = some r :: rest) :
    busRead a7 n s =
      some (boundReply r, { s with readAnswers := rest, trace := s.trace ++ [.read a7 n (boundReply r)] }) := by
  unfold busRead
  rw [takeReadAnswer_script h]
  rfl

/-- A reply within the transport's bound is delivered whole. -/
theorem boundReply_of_le {xs : List Byte} (h : xs.length ≤ 256) : boundReply (.bytes xs) = .bytes xs := by
  simp [boundReply, List.take_of_length_le h]

/-- A delivered byte list has at most 256 bytes. -/
theorem boundReply_length {r : ReadReply} {xs : List Byte} (h : ReadReply.bytes xs = boundReply r) :
    xs.length ≤ 256 := by
  cases r <;> simp_all [boundReply]

/-- Everything RB1 of MemRead can do. -/
theorem readAddress_cases (space : Space) (a : Byte) (next : Label) (s : State) :
    (takeWriteAnswer s = none ∧ readAddress space a next s = s) ∨
    (∃ t, Moved (.write (translate space s.cc) [a] true) s t ∧ readAddress space a next s = t.setLabel next) ∨
    (∃ t, Moved (.write (translate space s.cc) [a] false) s t ∧
      readAddress space a next s = raise (.transport (translate space s.cc) false false) t) := by
  unfold readAddress
  split
  · rename_i h; exact .inr (.inl ⟨_, (busWrite_spec h).1, rfl⟩)
  · rename_i h; exact .inr (.inr ⟨_, (busWrite_spec h).1, rfl⟩)
  · rename_i h; exact .inl ⟨busWrite_eq_none.1 h, rfl⟩

/-- Everything RB2 of MemRead can do. -/
theorem readData_cases (space : Space) (n : Nat) (k : List Byte → State → State) (s : State) :
    (takeReadAnswer s = none ∧ readData space n k s = s) ∨
    (∃ t xs, Moved (.read (translate space s.cc) n (.bytes xs)) s t ∧ xs.length = n ∧ n ≤ 256 ∧
      readData space n k s = k xs t) ∨
    (∃ t xs, Moved (.read (translate space s.cc) n (.bytes xs)) s t ∧ xs.length ≠ n ∧
      readData space n k s = raise (.transport (translate space s.cc) true true) t) ∨
    (∃ t, Moved (.read (translate space s.cc) n .fail) s t ∧
      readData space n k s = raise (.transport (translate space s.cc) true false) t) := by
  unfold readData
  split
  · rename_i h
    obtain ⟨hm, r', hr⟩ := busRead_spec h
    split
    · rename_i hl
      exact .inr (.inl ⟨_, _, hm, hl, hl ▸ boundReply_length hr, rfl⟩)
    · rename_i hl
      exact .inr (.inr (.inl ⟨_, _, hm, hl, rfl⟩))
  · rename_i h; exact .inr (.inr (.inr ⟨_, (busRead_spec h).1, rfl⟩))
  · rename_i h; exact .inl ⟨busRead_eq_none.1 h, rfl⟩

/-- Everything WB1 of MemWrite can do. -/
theorem memWrite_cases (space : Space) (a : Byte) (v : List Byte) (k : State → State) (s : State) :
    (takeWriteAnswer s = none ∧ memWrite space a v k s = s) ∨
    (∃ t, Moved (.write (translate space s.cc) (a :: v) true) s t ∧ memWrite space a v k s = k t) ∨
    (∃ t, Moved (.write (translate space s.cc) (a :: v) false) s t ∧
      memWrite space a v k s = raise (.transport (translate space s.cc) false false) t) := by
  unfold memWrite
  split
  · rename_i h; exact .inr (.inl ⟨_, (busWrite_spec h).1, rfl⟩)
  · rename_i h; exact .inr (.inr ⟨_, (busWrite_spec h).1, rfl⟩)
  · rename_i h; exact .inl ⟨busWrite_eq_none.1 h, rfl⟩

/-- Everything the errata workaround can do: whatever the answer, it goes on at `next`. -/
theorem errata_cases (next : Label) (s : State) :
    (takeWriteAnswer s = none ∧ errata next s = s) ∨
    (∃ t ok, Moved (.write (translate .register s.cc) (dummyBytes s.params.errataDummyPayload) ok) s t ∧
      errata next s = t.setLabel next) := by
  unfold errata
  split
  · rename_i h; exact .inr ⟨_, _, (busWrite_spec h).1, rfl⟩
  · rename_i h; exact .inl ⟨busWrite_eq_none.1 h, rfl⟩

/-- A meaning that reads the descriptor answers a next state exactly when DEVSEL names one. -/
theorem withDesc_eq_next {s t : State} {f : DeviceDescriptor → State} :
    withDesc s f = .next t ↔ ∃ d, s.desc? = some d ∧ t = f d := by
  unfold withDesc
  split
  · rename_i d h
    simp [h, eq_comm]
  · rename_i h
    simp [h]

@[simp] theorem withDesc_of_some {s : State} {d : DeviceDescriptor} (h : s.desc? = some d)
    (f : DeviceDescriptor → State) : withDesc s f = .next (f d) := by
  simp [withDesc, h]

/-- The selected descriptor depends on the table and on DEVSEL alone. -/
theorem State.desc_congr {s t : State} (hp : t.params = s.params) (hd : t.devsel = s.devsel) : t.desc? = s.desc? := by
  simp [State.desc?, hp, hd]

/-- DEVSEL names a descriptor exactly when it is an index of the table. -/
theorem State.desc_isSome {s : State} (h : s.devsel.toNat < s.params.descriptors.length) :
    ∃ d, s.desc? = some d ∧ d ∈ s.params.descriptors := by
  refine ⟨s.params.descriptors[s.devsel.toNat], ?_, List.getElem_mem h⟩
  simp [State.desc?, h]

end Sys2Proof.Machine
end

