-- ==== Sys2Proof/Laws/Page.lean ====
section
/-! SUPPORT. What the page procedures and every command's step can do, said once. -/

namespace Sys2Proof.Machine

/-- `t` is `s` but for STATUS (OVERRUN apart), RESULT, ERRINFO, the pc and the locals: work that touches no bus. -/
structure Silent (s t : State) : Prop where
  eq : ∃ st r ei pc l,
    t = { s with status := st, result := r, errinfo := ei, pc := pc, locals := l } ∧ st.overrun = s.status.overrun

section Silent

variable {s t u : State}

theorem Silent.refl (s : State) : Silent s s := ⟨_, _, _, _, _, rfl, rfl⟩

theorem Silent.trans (h : Silent s t) (h' : Silent t u) : Silent s u := by
  obtain ⟨_, _, _, _, _, rfl, ho⟩ := h
  obtain ⟨_, _, _, _, _, rfl, ho'⟩ := h'
  exact ⟨_, _, _, _, _, rfl, ho'.trans ho⟩

theorem Silent.params (h : Silent s t) : t.params = s.params := by obtain ⟨_, _, _, _, _, rfl, _⟩ := h; rfl
theorem Silent.cmdreg (h : Silent s t) : t.cmdreg = s.cmdreg := by obtain ⟨_, _, _, _, _, rfl, _⟩ := h; rfl
theorem Silent.cc (h : Silent s t) : t.cc = s.cc := by obtain ⟨_, _, _, _, _, rfl, _⟩ := h; rfl
theorem Silent.devsel (h : Silent s t) : t.devsel = s.devsel := by obtain ⟨_, _, _, _, _, rfl, _⟩ := h; rfl
theorem Silent.data (h : Silent s t) : t.data = s.data := by obtain ⟨_, _, _, _, _, rfl, _⟩ := h; rfl
theorem Silent.trace (h : Silent s t) : t.trace = s.trace := by obtain ⟨_, _, _, _, _, rfl, _⟩ := h; rfl
theorem Silent.draws (h : Silent s t) : t.draws = s.draws := by obtain ⟨_, _, _, _, _, rfl, _⟩ := h; rfl
theorem Silent.hostRead (h : Silent s t) : t.hostRead = s.hostRead := by obtain ⟨_, _, _, _, _, rfl, _⟩ := h; rfl
theorem Silent.schedule (h : Silent s t) : t.schedule = s.schedule := by obtain ⟨_, _, _, _, _, rfl, _⟩ := h; rfl
theorem Silent.overrun (h : Silent s t) : t.status.overrun = s.status.overrun := by
  obtain ⟨_, _, _, _, _, rfl, ho⟩ := h
  exact ho

theorem silent_setLabel (l : Label) (s : State) : Silent s (s.setLabel l) := ⟨_, _, _, _, _, rfl, rfl⟩
theorem silent_setPState (p : PState) (s : State) : Silent s (s.setPState p) := ⟨_, _, _, _, _, rfl, rfl⟩
theorem silent_setLocals (l : Locals) (s : State) : Silent s (s.setLocals l) := ⟨_, _, _, _, _, rfl, rfl⟩
theorem silent_setBuf (xs : List Byte) (s : State) : Silent s (s.setBuf xs) := ⟨_, _, _, _, _, rfl, rfl⟩
theorem silent_finish (r : Word) (s : State) : Silent s (finish r s) := ⟨_, _, _, _, _, rfl, rfl⟩
theorem silent_raise (e : Error) (s : State) : Silent s (raise e s) := ⟨_, _, _, _, _, rfl, rfl⟩
theorem silent_beginPage (sp : Space) (p : Page) (s : State) : Silent s (beginPage sp p s) := ⟨_, _, _, _, _, rfl, rfl⟩
theorem silent_writeBitmaps (s : State) : Silent s (writeBitmaps s) := ⟨_, _, _, _, _, rfl, rfl⟩

end Silent

variable (d : DeviceDescriptor) (space : Space)

/-- Step 1 of ErasePage goes on at E1 or raises ReadOnlyPageError (R79). -/
theorem enterErasePage_cases (p : Page) (lbl : EraseLabel → Label) (s : State) :
    (pageWritable d space p = true ∧ enterErasePage d space p lbl s = s.setLabel (lbl .e1Rb1)) ∨
    (pageWritable d space p = false ∧ enterErasePage d space p lbl s = raise (.readOnlyPage p) s) := by
  unfold enterErasePage
  split <;> simp_all

/-- Step 1 of ProgramPage goes on at P1 or raises ReadOnlyPageError (R80). -/
theorem enterProgramPage_cases (p : Page) (lbl : PageLabel → Label) (s : State) :
    (pageWritable d space p = true ∧
      enterProgramPage d space p lbl s = (beginPage space p s).setLabel (lbl .p1Rb1)) ∨
    (pageWritable d space p = false ∧
      enterProgramPage d space p lbl s = raise (.readOnlyPage p) (beginPage space p s)) := by
  unfold enterProgramPage
  split <;> simp_all

/-- The state in which ProgramPages has skipped the pages `i .. j - 1` (R81). -/
def skipPages (sp : Page) : Nat → Nat → State → State
  | 0, _, s => s
  | k + 1, i, s =>
    let p := sp + BitVec.ofNat 4 i
    skipPages sp k (i + 1)
      (writeBitmaps (s.setLocals { s.locals with i := BitVec.ofNat 4 i, p := p, skipped := addBit s.locals.skipped p }))

/-- Everything the loop of ProgramPages can do: it skips pages that are not writable, and then ends or begins the first
writable one (R81). -/
theorem pagesLoop_cases (sp : Page) (k i : Nat) (s : State) :
    ∃ n, n ≤ k ∧ (∀ j < n, pageWritable d space (sp + BitVec.ofNat 4 (i + j)) = false) ∧
      ((n = k ∧ pagesLoop d space sp k i s =
          finish (resultBitmaps (skipPages sp n i s).locals.programmed (skipPages sp n i s).locals.skipped)
            (skipPages sp n i s)) ∨
       (n < k ∧ pageWritable d space (sp + BitVec.ofNat 4 (i + n)) = true ∧ pagesLoop d space sp k i s =
          (beginPage space (sp + BitVec.ofNat 4 (i + n))
            ((skipPages sp n i s).setLocals
              { (skipPages sp n i s).locals with
                i := BitVec.ofNat 4 (i + n), p := sp + BitVec.ofNat 4 (i + n) })).setLabel (.pages .p1Rb1))) := by
  induction k generalizing i s with
  | zero => exact ⟨0, le_rfl, by simp, .inl ⟨rfl, rfl⟩⟩
  | succ k ih =>
    by_cases hw : pageWritable d space (sp + BitVec.ofNat 4 i) = true
    · refine ⟨0, by omega, by simp, .inr ⟨by omega, by simpa using hw, ?_⟩⟩
      simp only [pagesLoop, hw, if_true, enterProgramPage, skipPages, Nat.add_zero]
    · obtain ⟨n, hn, hj, hc⟩ := ih (i + 1)
        (writeBitmaps (s.setLocals
          { s.locals with
            i := BitVec.ofNat 4 i, p := sp + BitVec.ofNat 4 i,
            skipped := addBit s.locals.skipped (sp + BitVec.ofNat 4 i) }))
      refine ⟨n + 1, by omega, ?_, ?_⟩
      · intro j hjn
        cases j with
        | zero => simpa using hw
        | succ j =>
          have := hj j (by omega)
          rwa [show i + 1 + j = i + (j + 1) by omega] at this
      · have hl : pagesLoop d space sp (k + 1) i s =
            pagesLoop d space sp k (i + 1)
              (writeBitmaps (s.setLocals
                { s.locals with
                  i := BitVec.ofNat 4 i, p := sp + BitVec.ofNat 4 i,
                  skipped := addBit s.locals.skipped (sp + BitVec.ofNat 4 i) })) := by
          simp only [pagesLoop, hw]
          rfl
        rw [hl]
        rcases hc with ⟨hnk, he⟩ | ⟨hnk, hwn, he⟩
        · exact .inl ⟨by omega, he⟩
        · rw [show i + 1 + n = i + (n + 1) by omega] at hwn he
          exact .inr ⟨by omega, hwn, he⟩

theorem silent_skipPages (sp : Page) (k i : Nat) (s : State) : Silent s (skipPages sp k i s) := by
  induction k generalizing i s with
  | zero => exact Silent.refl s
  | succ k ih => exact ((silent_setLocals _ s).trans (silent_writeBitmaps _)).trans (ih (i + 1) _)

/-- What skipping leaves: the skipped bitmap gains the skipped pages, RESULT follows it, and STATUS, ERRINFO, the pc and
the other locals that outlive a page stay. -/
theorem skipPages_spec (sp : Page) (k i : Nat) (s : State) :
    (skipPages sp k i s).status = s.status ∧ (skipPages sp k i s).errinfo = s.errinfo ∧
    (skipPages sp k i s).pc = s.pc ∧ (skipPages sp k i s).locals.programmed = s.locals.programmed ∧
    (skipPages sp k i s).locals.img = s.locals.img ∧ (skipPages sp k i s).locals.erasedNow = s.locals.erasedNow ∧
    (skipPages sp k i s).locals.buf = s.locals.buf ∧
    ((s.result = resultBitmaps s.locals.programmed s.locals.skipped) →
      (skipPages sp k i s).result =
        resultBitmaps (skipPages sp k i s).locals.programmed (skipPages sp k i s).locals.skipped) ∧
    (∀ b, (skipPages sp k i s).locals.skipped.getLsbD b =
      (s.locals.skipped.getLsbD b || decide (∃ j < k, b = (sp + BitVec.ofNat 4 (i + j)).toNat))) := by
  induction k generalizing i s with
  | zero => exact ⟨rfl, rfl, rfl, rfl, rfl, rfl, rfl, id, by simp [skipPages]⟩
  | succ k ih =>
    obtain ⟨h1, h2, h3, h4, h5, h6, h7, h8, h9⟩ := ih (i + 1)
      (writeBitmaps (s.setLocals
        { s.locals with
          i := BitVec.ofNat 4 i, p := sp + BitVec.ofNat 4 i,
          skipped := addBit s.locals.skipped (sp + BitVec.ofNat 4 i) }))
    refine ⟨h1, h2, h3, h4, h5, h6, h7, fun _ => h8 rfl, fun b => ?_⟩
    have h := h9 b
    simp only [skipPages]
    rw [h]
    have he : (∃ j < k + 1, b = (sp + BitVec.ofNat 4 (i + j)).toNat) ↔
        b = (sp + BitVec.ofNat 4 i).toNat ∨ ∃ j < k, b = (sp + BitVec.ofNat 4 (i + 1 + j)).toNat := by
      constructor
      · rintro ⟨j, hj, hb⟩
        cases j with
        | zero => exact .inl (by simpa using hb)
        | succ j => exact .inr ⟨j, by omega, by rw [hb, show i + 1 + j = i + (j + 1) by omega]⟩
      · rintro (hb | ⟨j, hj, hb⟩)
        · exact ⟨0, by omega, by simpa using hb⟩
        · exact ⟨j + 1, by omega, by rw [hb, show i + (j + 1) = i + 1 + j by omega]⟩
    simp only [he, Bool.decide_or]
    rw [← Bool.or_assoc]
    congr 1
    exact addBit_getLsbD _ _ _

theorem silent_pagesLoop (sp : Page) (k i : Nat) (s : State) : Silent s (pagesLoop d space sp k i s) := by
  obtain ⟨n, -, -, ⟨-, h⟩ | ⟨-, -, h⟩⟩ := pagesLoop_cases d space sp k i s
  · rw [h]
    exact (silent_skipPages sp n i s).trans (silent_finish _ _)
  · rw [h]
    exact (((silent_skipPages sp n i s).trans (silent_setLocals _ _)).trans (silent_beginPage _ _ _)).trans
      (silent_setLabel _ _)

theorem silent_afterPage (sp : Page) (np : Nat) (prog : Bool) (s : State) :
    Silent s (afterPage d space sp np prog s) := by
  unfold afterPage
  refine Silent.trans ?_ (silent_pagesLoop d space sp _ _ _)
  cases prog
  · exact silent_writeBitmaps s
  · exact (silent_setLocals _ s).trans (silent_writeBitmaps _)

theorem silent_enterErasePage (p : Page) (lbl : EraseLabel → Label) (s : State) :
    Silent s (enterErasePage d space p lbl s) := by
  rcases enterErasePage_cases d space p lbl s with ⟨-, h⟩ | ⟨-, h⟩ <;> rw [h]
  · exact silent_setLabel _ s
  · exact silent_raise _ s

theorem silent_enterProgramPage (p : Page) (lbl : PageLabel → Label) (s : State) :
    Silent s (enterProgramPage d space p lbl s) := by
  rcases enterProgramPage_cases d space p lbl s with ⟨-, h⟩ | ⟨-, h⟩ <;> rw [h]
  · exact (silent_beginPage _ _ s).trans (silent_setLabel _ _)
  · exact (silent_beginPage _ _ s).trans (silent_raise _ _)

/-- ProgramPages raises ReadOnlyPageError under Fail for the first page of its range that is not writable, and else enters
its loop with both bitmaps empty (R81). -/
theorem enterProgramPages_cases (sp : Page) (np : Nat) (s : State) :
    (∃ p, s.params.roPolicy = .fail ∧ firstReadOnly d space sp np = some p ∧
      enterProgramPages d space sp np s = raise (.readOnlyPage p) s) ∨
    ((s.params.roPolicy = .fail → firstReadOnly d space sp np = none) ∧
      enterProgramPages d space sp np s =
        pagesLoop d space sp np 0 (s.setLocals { s.locals with skipped := 0, programmed := 0 })) := by
  unfold enterProgramPages
  by_cases hf : s.params.roPolicy = .fail
  · simp only [hf, if_true]
    cases firstReadOnly d space sp np with
    | some p => exact .inl ⟨p, trivial, rfl, rfl⟩
    | none => exact .inr ⟨fun _ => rfl, rfl⟩
  · exact .inr ⟨fun h => absurd h hf, by simp only [hf, if_false]⟩

/-- No page of a range is read-only exactly when every one is writable (R81). -/
theorem firstReadOnly_eq_none {sp : Page} {np : Nat} :
    firstReadOnly d space sp np = none ↔ ∀ i < np, pageWritable d space (sp + BitVec.ofNat 4 i) = true := by
  simp [firstReadOnly, List.find?_eq_none]

theorem silent_enterProgramPages (sp : Page) (np : Nat) (s : State) :
    Silent s (enterProgramPages d space sp np s) := by
  unfold enterProgramPages
  split
  · exact silent_raise _ s
  · exact (silent_setLocals _ s).trans (silent_pagesLoop d space sp _ _ _)

theorem silent_markFound (ok : Bool) (s : State) : Silent s (markFound ok s) := by
  cases ok
  · exact Silent.refl s
  · exact silent_setLocals _ s

/-- Noting a probe's answer sets the bit of its code when it is true, and moves nothing else (R92). -/
theorem markFound_spec (ok : Bool) (s : State) :
    ∃ found : BitVec 16, markFound ok s = s.setLocals { s.locals with found := found } ∧
      ∀ k, found.getLsbD k = (s.locals.found.getLsbD k || (ok && decide (k = s.locals.c.toNat))) := by
  cases ok
  · exact ⟨s.locals.found, rfl, by simp⟩
  · exact ⟨addBit s.locals.found s.locals.c, rfl, fun k => by simp [addBit_getLsbD]⟩

/-- After a probe SCAN_DEVICES goes on with the next code, or ends with code 15 (R92). -/
theorem afterProbe_cases (s : State) :
    (s.locals.c ≠ 15 ∧ afterProbe s = (s.setLocals { s.locals with c := s.locals.c + 1 }).setLabel .scan) ∨
    (s.locals.c = 15 ∧ afterProbe s = finishScan s) := by
  unfold afterProbe
  split <;> simp_all

/-- A step that performs at most one bus primitive and then silent work (R34). -/
structure OneEvent (s t : State) : Prop where
  eq : t = s ∨ ∃ e u, Moved e s u ∧ Silent u t

theorem oneEvent_readAddress (sp : Space) (a : Byte) (next : Label) (s : State) :
    OneEvent s (readAddress sp a next s) := by
  rcases readAddress_cases sp a next s with ⟨-, h⟩ | ⟨t, hm, h⟩ | ⟨t, hm, h⟩ <;> rw [h]
  · exact ⟨.inl rfl⟩
  · exact ⟨.inr ⟨_, t, hm, silent_setLabel _ t⟩⟩
  · exact ⟨.inr ⟨_, t, hm, silent_raise _ t⟩⟩

theorem oneEvent_readData (sp : Space) (n : Nat) (k : List Byte → State → State)
    (hk : ∀ xs u, Silent u (k xs u)) (s : State) : OneEvent s (readData sp n k s) := by
  rcases readData_cases sp n k s with ⟨-, h⟩ | ⟨t, xs, hm, -, -, h⟩ | ⟨t, xs, hm, -, h⟩ | ⟨t, hm, h⟩ <;> rw [h]
  · exact ⟨.inl rfl⟩
  · exact ⟨.inr ⟨_, t, hm, hk xs t⟩⟩
  · exact ⟨.inr ⟨_, t, hm, silent_raise _ t⟩⟩
  · exact ⟨.inr ⟨_, t, hm, silent_raise _ t⟩⟩

theorem oneEvent_memWrite (sp : Space) (a : Byte) (v : List Byte) (k : State → State)
    (hk : ∀ u, Silent u (k u)) (s : State) : OneEvent s (memWrite sp a v k s) := by
  rcases memWrite_cases sp a v k s with ⟨-, h⟩ | ⟨t, hm, h⟩ | ⟨t, hm, h⟩ <;> rw [h]
  · exact ⟨.inl rfl⟩
  · exact ⟨.inr ⟨_, t, hm, hk t⟩⟩
  · exact ⟨.inr ⟨_, t, hm, silent_raise _ t⟩⟩

/-- A step of ErasePage performs at most one bus primitive and then silent work. -/
theorem oneEvent_erasePageStep (p : Page) (b : Bool) (lbl : EraseLabel → Label) (ret : Bool → State → State)
    (hret : ∀ b u, Silent u (ret b u)) (l : EraseLabel) (s : State) :
    OneEvent s (erasePageStep d space p b lbl ret l s) := by
  cases l with
  | e1Rb1 => exact oneEvent_readAddress _ _ _ s
  | e1Rb2 =>
    refine oneEvent_readData _ _ _ (fun xs u => ?_) s
    split
    · exact ((silent_setBuf _ u).trans (silent_setPState _ _)).trans (hret _ _)
    · exact ((silent_setBuf _ u).trans (silent_setPState _ _)).trans (silent_setLabel _ _)
  | e2Wb1 => exact oneEvent_memWrite _ _ _ _ (fun u => silent_setLabel _ u) s
  | e3 => exact ⟨.inr ⟨_, _, busWait_moved .erase s, silent_setLabel _ _⟩⟩
  | e4D1 =>
    rcases errata_cases (lbl .e5Rb1) s with ⟨-, h⟩ | ⟨t, ok, hm, h⟩
    · exact ⟨.inl h⟩
    · refine ⟨.inr ⟨_, t, hm, ?_⟩⟩
      rw [erasePageStep, h]
      exact silent_setLabel _ t
  | e5Rb1 => exact oneEvent_readAddress _ _ _ s
  | e5Rb2 =>
    refine oneEvent_readData _ _ _ (fun xs u => ?_) s
    split
    · exact ((silent_setBuf _ u).trans (silent_setPState _ _)).trans (hret _ _)
    · exact (silent_setBuf _ u).trans (silent_raise _ _)

/-- A step of ProgramPage performs at most one bus primitive and then silent work. -/
theorem oneEvent_programPageStep (p : Page) (target : List Byte) (lbl : PageLabel → Label)
    (ret : Bool → Bool → State → State) (hret : ∀ b b' u, Silent u (ret b b' u)) (l : PageLabel) (s : State) :
    OneEvent s (programPageStep d space p target lbl ret l s) := by
  cases l with
  | p1Rb1 => exact oneEvent_readAddress _ _ _ s
  | p1Rb2 =>
    refine oneEvent_readData _ _ _ (fun xs u => ?_) s
    split
    · exact ((silent_setBuf _ u).trans (silent_setPState _ _)).trans (hret _ _ _)
    · exact (silent_setBuf _ u).trans (silent_enterErasePage d space p _ _)
  | p2 l =>
    refine oneEvent_erasePageStep d space p false (fun e => lbl (.p2 e))
      (fun erased s' =>
        ((s'.setLocals { s'.locals with erasedNow := erased }).setPState .programming).setLabel (lbl .p3Wb1))
      (fun b u => ?_) l s
    exact ((silent_setLocals _ u).trans (silent_setPState _ _)).trans (silent_setLabel _ _)
  | p3Wb1 => exact oneEvent_memWrite _ _ _ _ (fun u => silent_setLabel _ u) s
  | p4 => exact ⟨.inr ⟨_, _, busWait_moved .program s, silent_setLabel _ _⟩⟩
  | p5Rb1 => exact oneEvent_readAddress _ _ _ s
  | p5Rb2 =>
    refine oneEvent_readData _ _ _ (fun xs u => ?_) s
    split
    · exact ((silent_setBuf _ u).trans (silent_setPState _ _)).trans (hret _ _ _)
    · exact (silent_setBuf _ u).trans (silent_raise _ _)

end Sys2Proof.Machine
end

