-- ==== Sys2Proof/Laws/Job.lean ====
section
/-! SUPPORT. In a sound state a command inside a page procedure takes a step of that procedure, for its own page; and a
transport that never answers. -/

namespace Sys2Proof.Safety

open Sys2Proof.Machine

/-! ### The page procedure of a running command -/

/-- At a label of ProgramPage the running command takes a step of ProgramPage, for the page of its job (R80, R81). -/
theorem exec_programPage {s : State} {lbl : PageLabel → Label} {l : PageLabel} {d : DeviceDescriptor} {j : PageJob}
    (hi : Sound s) (hn : PageNaming lbl) (hl : s.pc = .resume (lbl l)) (hd : s.desc? = some d)
    (hj : pageJob s = some j) :
    ∃ ret, exec s.command s = .next (programPageStep d j.space j.page j.target lbl ret l s) := by
  have hleg := hi.label_legal _ hl
  unfold pageJob at hj
  rcases hn with rfl | rfl
  all_goals
    split at hj <;> simp only [reduceCtorEq, Option.some.injEq] at hj <;> rename_i hc <;> rw [hc] at hleg <;>
      simp only [legalLabel, Bool.false_eq_true] at hleg
    all_goals
      subst hj
      rw [hc]
      simp only [exec, execProgramPage, execProgramPages, execProgramControlCode, hl, withDesc_of_some hd,
        programPagesStep]
      exact ⟨_, rfl⟩

/-- At a label of ErasePage the running command takes a step of ErasePage, for the page of its job (R79, R80). -/
theorem exec_erasePage {s : State} {lbl : EraseLabel → Label} {l : EraseLabel} {d : DeviceDescriptor} {j : PageJob}
    (hi : Sound s) (hn : EraseNaming lbl) (hl : s.pc = .resume (lbl l)) (hd : s.desc? = some d)
    (hj : pageJob s = some j) :
    ∃ standalone ret, exec s.command s = .next (erasePageStep d j.space j.page standalone lbl ret l s) := by
  rcases hn with rfl | rfl | rfl
  · have hleg := hi.label_legal _ hl
    unfold pageJob at hj
    split at hj <;> simp only [reduceCtorEq, Option.some.injEq] at hj <;> rename_i hc <;> rw [hc] at hleg <;>
      simp only [legalLabel, Bool.false_eq_true] at hleg
    subst hj
    rw [hc]
    simp only [exec, execErasePage, hl, withDesc_of_some hd]
    exact ⟨_, _, rfl⟩
  · obtain ⟨ret, h⟩ := exec_programPage hi (.inl rfl) hl hd hj
    rw [programPageStep] at h
    exact ⟨_, _, h⟩
  · obtain ⟨ret, h⟩ := exec_programPage hi (.inr rfl) hl hd hj
    rw [programPageStep] at h
    exact ⟨_, _, h⟩

/-- A sound state that is not IDLE is BUSY (R32). -/
theorem Sound.busy {s : State} (hi : Sound s) {l : Label} (hl : s.pc = .resume l) : s.status.busy = true := by
  have h := hi.idle_iff
  rw [hl] at h
  simpa using h

/-- What a TransportError inside a page procedure leaves in ERRINFO (R24, R99): the page in progress is named. -/
theorem raise_transport_errinfo {s t : State} {l : Label} {j : PageJob} (hi : Sound s) (hl : s.pc = .resume l)
    (hp : inPageProcedure l = true) (hj : pageJob s = some j) (hst : t.status = s.status) (a7 : Addr7) (r m : Bool) :
    (raise (.transport a7 r m) t).errinfo = pageTransportInfo a7 r m j.page := by
  obtain ⟨j', hj', hpage, -⟩ := hi.page_named l hl hp
  cases hj.symm.trans hj'
  have hps : s.status.pstate ≠ .none := by
    rw [hi.pstate_label l hl]
    cases l <;> simp only [inPageProcedure, Bool.false_eq_true] at hp
    · rename_i e; cases e <;> simp [labelPState, erasePState]
    all_goals
      rename_i e
      cases e <;> simp [labelPState, pagePState]
      rename_i e
      cases e <;> simp [erasePState]
  simp [raise, State.setPc, State.setStatus, State.setErrInfo, raisedErrInfo, pageTransportInfo, hst, hps, hpage,
    Error.addr7, Error.isRead, Error.lengthMismatch, Error.page?]

/-! ### A transport that never answers (R106) -/

/-- Whether the transport answers, and what the sequencer issues, depends on the pc, the scripts and the counter of answers
alone. -/
theorem Hung.congr {s t : State} (h : Hung s) (hpc : t.pc = s.pc) (hw : t.writeAnswers = s.writeAnswers)
    (hr : t.readAnswers = s.readAnswers) (hn : t.answerDraws = s.answerDraws) : Hung t := by
  simpa [Hung, State.issues, takeWriteAnswer_eq_none, takeReadAnswer_eq_none, hpc, hw, hr, hn] using h

/-- A hung command stands at a label. -/
theorem Hung.label {s : State} (h : Hung s) : ∃ l, s.pc = .resume l := by
  cases hp : s.pc with
  | idle => simp [Hung, State.issues, hp] at h
  | resume l => exact ⟨l, rfl⟩

/-- While a write is not answered, a step of ErasePage at one of its writes changes nothing. -/
theorem erasePageStep_writeHangs {s : State} (h : takeWriteAnswer s = none) (d : DeviceDescriptor) (sp : Space) (p : Page)
    (b : Bool) (lbl : EraseLabel → Label) (ret : Bool → State → State) {l : EraseLabel}
    (hl : erasePrimitive l = .busWrite) : erasePageStep d sp p b lbl ret l s = s := by
  have hw : ∀ a7 bytes, busWrite a7 bytes s = none := fun _ _ => busWrite_eq_none.2 h
  cases l <;> simp [erasePrimitive] at hl <;> simp [erasePageStep, readAddress, memWrite, errata, hw]

/-- While a read is not answered, a step of ErasePage at one of its reads changes nothing. -/
theorem erasePageStep_readHangs {s : State} (h : takeReadAnswer s = none) (d : DeviceDescriptor) (sp : Space) (p : Page)
    (b : Bool) (lbl : EraseLabel → Label) (ret : Bool → State → State) {l : EraseLabel}
    (hl : erasePrimitive l = .busRead) : erasePageStep d sp p b lbl ret l s = s := by
  have hr : ∀ a7 n, busRead a7 n s = none := fun _ _ => busRead_eq_none.2 h
  cases l <;> simp [erasePrimitive] at hl <;> simp [erasePageStep, readData, hr]

/-- While a write is not answered, a step of ProgramPage at one of its writes changes nothing. -/
theorem programPageStep_writeHangs {s : State} (h : takeWriteAnswer s = none) (d : DeviceDescriptor) (sp : Space)
    (p : Page) (target : List Byte) (lbl : PageLabel → Label) (ret : Bool → Bool → State → State) {l : PageLabel}
    (hl : pagePrimitive l = .busWrite) : programPageStep d sp p target lbl ret l s = s := by
  have hw : ∀ a7 bytes, busWrite a7 bytes s = none := fun _ _ => busWrite_eq_none.2 h
  cases l <;> simp [pagePrimitive] at hl <;> simp [programPageStep, readAddress, memWrite, hw]
  exact erasePageStep_writeHangs h _ _ _ _ _ _ hl

/-- While a read is not answered, a step of ProgramPage at one of its reads changes nothing. -/
theorem programPageStep_readHangs {s : State} (h : takeReadAnswer s = none) (d : DeviceDescriptor) (sp : Space)
    (p : Page) (target : List Byte) (lbl : PageLabel → Label) (ret : Bool → Bool → State → State) {l : PageLabel}
    (hl : pagePrimitive l = .busRead) : programPageStep d sp p target lbl ret l s = s := by
  have hr : ∀ a7 n, busRead a7 n s = none := fun _ _ => busRead_eq_none.2 h
  cases l <;> simp [pagePrimitive] at hl <;> simp [programPageStep, readData, hr]
  exact erasePageStep_readHangs h _ _ _ _ _ _ hl

end Sys2Proof.Safety
end

