-- ==== Sys2Proof/Laws/PerInstr.lean ====
section
/-! SUPPORT. What is proved per constructor of Instr: the fields of each command's word (R58, R61, R63). -/

namespace Sys2Proof.Laws

/-- A word with an opcode, the fields given, and both should-be-zero fields 0 (R58). -/
def HasFields (w : Word) (op : BitVec 4) (space : BitVec 2) (arg : Byte) (count : BitVec 9) : Prop :=
  wordOp w = op ∧ wordSpace w = space ∧ wordSbz0 w = 0 ∧ wordArg w = arg ∧ wordCount w = count ∧ wordSbz1 w = 0

theorem hasFields_packWord (op : BitVec 4) (space : BitVec 2) (arg : Byte) (count : BitVec 9) :
    HasFields (packWord op space arg count) op space arg count := by
  rw [packWord_eq_fieldWord]
  exact ⟨wordOp_fieldWord .., wordSpace_fieldWord .., wordSbz0_fieldWord .., wordArg_fieldWord ..,
    wordCount_fieldWord .., wordSbz1_fieldWord ..⟩

/-- The word of a command has its row's opcode (R61), its operands in their fields, and 0 in every field its row does not
use; the word of a well-formed reserved-row command is one of R63's illegal words. -/
def EncodedFields.Statement : Instr → Prop
  | .readBytes sp a n => HasFields (encode (.readBytes sp a n)) 0x1 (spaceCode sp) a n
  | .writeBytes sp a n => HasFields (encode (.writeBytes sp a n)) 0x2 (spaceCode sp) a n
  | .readPage sp p => HasFields (encode (.readPage sp p)) 0x3 (spaceCode sp) p 0
  | .isPageWritable sp p => HasFields (encode (.isPageWritable sp p)) 0x4 (spaceCode sp) p 0
  | .isPageErased sp p => HasFields (encode (.isPageErased sp p)) 0x5 (spaceCode sp) p 0
  | .erasePage sp p => HasFields (encode (.erasePage sp p)) 0x6 (spaceCode sp) p 0
  | .programPage sp p => HasFields (encode (.programPage sp p)) 0x7 (spaceCode sp) p 0
  | .programPages sp p n => HasFields (encode (.programPages sp p n)) 0x8 (spaceCode sp) p n
  | .resetDevice => HasFields (encode .resetDevice) 0x9 0 0 0
  | .scanDevice c => HasFields (encode (.scanDevice c)) 0xA 0 c 0
  | .scanDevices => HasFields (encode .scanDevices) 0xB 0 0 0
  | .programControlCode n => HasFields (encode (.programControlCode n)) 0xC 0 0 n
  | .setControlCode c => HasFields (encode (.setControlCode c)) 0xD 0 c 0
  | .setDevice n => HasFields (encode (.setDevice n)) 0xE 0 0 n
  | .translate sp c => HasFields (encode (.translate sp c)) 0xF (spaceCode sp) c 0
  | .illegal w => WellFormed (.illegal w) = true → illegalWord (encode (.illegal w)) = true

theorem EncodedFields.readBytes (sp : Space) (a : Byte) (n : BitVec 9) :
    EncodedFields.Statement (.readBytes sp a n) := hasFields_packWord ..

theorem EncodedFields.writeBytes (sp : Space) (a : Byte) (n : BitVec 9) :
    EncodedFields.Statement (.writeBytes sp a n) := hasFields_packWord ..

theorem EncodedFields.readPage (sp : Space) (p : Byte) : EncodedFields.Statement (.readPage sp p) :=
  hasFields_packWord ..

theorem EncodedFields.isPageWritable (sp : Space) (p : Byte) : EncodedFields.Statement (.isPageWritable sp p) :=
  hasFields_packWord ..

theorem EncodedFields.isPageErased (sp : Space) (p : Byte) : EncodedFields.Statement (.isPageErased sp p) :=
  hasFields_packWord ..

theorem EncodedFields.erasePage (sp : Space) (p : Byte) : EncodedFields.Statement (.erasePage sp p) :=
  hasFields_packWord ..

theorem EncodedFields.programPage (sp : Space) (p : Byte) : EncodedFields.Statement (.programPage sp p) :=
  hasFields_packWord ..

theorem EncodedFields.programPages (sp : Space) (p : Byte) (n : BitVec 9) :
    EncodedFields.Statement (.programPages sp p n) := hasFields_packWord ..

theorem EncodedFields.resetDevice : EncodedFields.Statement .resetDevice := hasFields_packWord ..

theorem EncodedFields.scanDevice (c : Byte) : EncodedFields.Statement (.scanDevice c) := hasFields_packWord ..

theorem EncodedFields.scanDevices : EncodedFields.Statement .scanDevices := hasFields_packWord ..

theorem EncodedFields.programControlCode (n : BitVec 9) : EncodedFields.Statement (.programControlCode n) :=
  hasFields_packWord ..

theorem EncodedFields.setControlCode (c : Byte) : EncodedFields.Statement (.setControlCode c) :=
  hasFields_packWord ..

theorem EncodedFields.setDevice (n : BitVec 9) : EncodedFields.Statement (.setDevice n) := hasFields_packWord ..

theorem EncodedFields.translate (sp : Space) (c : Byte) : EncodedFields.Statement (.translate sp c) :=
  hasFields_packWord ..

theorem EncodedFields.illegal (w : Word) : EncodedFields.Statement (.illegal w) := fun h => h

end Sys2Proof.Laws
end

