-- ==== Sys2Proof/Laws/Window.lean ====
section
/-! SUPPORT. The host's side: what stands at each offset of the window, and whose turn a step is. -/

namespace Sys2Proof.Machine

theorem windowWord_eq_none {off : Nat} : windowWord off = none ↔ off % 4 ≠ 0 ∨ 512 ≤ off := by
  unfold windowWord
  split
  · simp_all
  · repeat' split
    all_goals simp_all

theorem windowWord_reserved {off : Nat} (h4 : off % 4 = 0) (h : 0x018 ≤ off) (hl : off < 0x100) :
    windowWord off = some .reserved := by
  simp only [windowWord]
  repeat rw [if_neg (by omega)]
  rw [if_pos hl]

theorem windowWord_data {off : Nat} (h4 : off % 4 = 0) (h : 0x100 ≤ off) (hl : off < 512) :
    windowWord off = some (.data (off - 0x100)) := by
  simp only [windowWord]
  repeat rw [if_neg (by omega)]

/-- Where DATA stands, and only there. -/
theorem windowWord_eq_data {off k : Nat} (h : windowWord off = some (.data k)) :
    off % 4 = 0 ∧ k = off - 0x100 ∧ k + 4 ≤ 256 := by
  unfold windowWord at h
  split at h
  · simp at h
  · repeat' split at h
    all_goals simp_all
    omega

/-- An unspecified DATA buffer is canonical. -/
theorem freeData_wf (d : Nat) : (freeData d).wf := Memory.wf_writeList Memory.wf_nil (by simp)

/-- The bytes of a host word, by lane (R19). -/
theorem extract_bytesWord (b0 b1 b2 b3 : Byte) :
    ∀ k < 4, (bytesWord b0 b1 b2 b3).extractLsb' (8 * k) 8 = [b0, b1, b2, b3].getD k 0 := by
  intro k hk
  apply BitVec.eq_of_getLsbD_eq
  intro i hi
  interval_cases k <;> simp [bytesWord, hi] <;> grind

/-- A host move that does not wait is the step, whatever the sequencer does. -/
theorem step_host {s : State} {m : HostMove} {rest : List Turn} (hs : s.schedule = .host m :: rest)
    (hw : (m.waits && s.status.busy) = false) : step s = hostMove m { s with schedule := rest } := by
  simp [step, takeTurn, hs, hw]

/-- Everything a step can be: a step of the sequencer, at a state that differs only in the schedule, or a host move. -/
theorem step_cases (s : State) :
    (∃ sch, step s = sequencerStep { s with schedule := sch }) ∨
    (∃ m rest, s.schedule = .host m :: rest ∧ (m.waits && s.status.busy) = false ∧
      step s = hostMove m { s with schedule := rest }) := by
  unfold step takeTurn
  split
  · rename_i h
    split at h
    · simp at h
    · simp at h
    · rename_i m rest hs
      split at h
      · simp at h
      · rename_i hw
        simp only [Prod.mk.injEq, Option.some.injEq] at h
        obtain ⟨rfl, rfl⟩ := h
        exact .inr ⟨_, _, hs, by simpa using hw, rfl⟩
  · rename_i h
    split at h
    · simp only [Prod.mk.injEq, true_and] at h
      exact .inl ⟨s.schedule, by rw [← h]⟩
    · simp only [Prod.mk.injEq, true_and] at h
      exact .inl ⟨_, by rw [← h]⟩
    · split at h
      · simp only [Prod.mk.injEq, true_and] at h
        exact .inl ⟨s.schedule, by rw [← h]⟩
      · simp at h

/-- Everything a host write can do: nothing, OVERRUN, an acceptance, or four bytes of DATA (R20, R25, R26). -/
theorem hostWrite_cases {off : Nat} {w : Word} {s t : State} (h : hostWrite off w s = .next t) :
    t = s ∨ (s.status.busy = true ∧ t = overrun s) ∨ (s.status.busy = false ∧ off = 0 ∧ t = accept w s) ∨
    (∃ k, s.status.busy = false ∧ windowWord off = some (.data k) ∧
      t = s.setData (s.data.writeList k (wordBytes w))) := by
  unfold hostWrite at h
  split at h
  · simp at h
  · rename_i hww
    have hoff : off = 0 := by
      unfold windowWord at hww
      repeat' split at hww
      all_goals simp_all
    by_cases hb : s.status.busy = true
    · simp only [hb, if_true, Host.Outcome.next.injEq] at h
      exact .inr (.inl ⟨hb, h.symm⟩)
    · simp only [hb, Host.Outcome.next.injEq] at h
      exact .inr (.inr (.inl ⟨by simpa using hb, hoff, h.symm⟩))
  · rename_i k hww
    by_cases hb : s.status.busy = true
    · simp only [hb, if_true, Host.Outcome.next.injEq] at h
      exact .inr (.inl ⟨hb, h.symm⟩)
    · simp only [hb, Host.Outcome.next.injEq] at h
      exact .inr (.inr (.inr ⟨k, by simpa using hb, hww, h.symm⟩))
  all_goals
    simp only [Host.Outcome.next.injEq] at h
    exact .inl h.symm

/-- A host read moves nothing but what it returned and the draw counter. -/
theorem hostReadMove_spec {off : Nat} {s t : State} (h : hostReadMove off s = .next t) :
    ∃ r n, t = { s with hostRead := r, draws := n } := by
  unfold hostReadMove at h
  split at h
  · simp at h
  all_goals
    simp only [Host.Outcome.next.injEq] at h
  all_goals try exact ⟨_, _, h.symm⟩
  split at h
  · exact ⟨_, _, h.symm⟩
  · exact ⟨_, _, h.symm⟩

@[simp] theorem dropNever_nil {α : Type} : dropNever ([] : List (Option α)) = [] := rfl

@[simp] theorem dropNever_none {α : Type} (rest : List (Option α)) : dropNever (none :: rest) = rest := rfl

@[simp] theorem dropNever_some {α : Type} (x : α) (rest : List (Option α)) :
    dropNever (some x :: rest) = some x :: rest := rfl

/-- Abandoning a transaction takes at most an answer that never comes off its script. -/
theorem dropNever_cases {α : Type} (answers : List (Option α)) :
    dropNever answers = answers ∨ answers = none :: dropNever answers := by
  rcases answers with _ | ⟨_ | x, rest⟩
  · exact .inl rfl
  · exact .inr rfl
  · exact .inl rfl

/-- What controller reset leaves: every register at its reset value, and of the transport's scripts all but an answer that
never came (R113, R114, R106). -/
theorem controllerReset_spec {d : Byte} {cc : ControlCode} {s t : State} (h : controllerReset d cc s = .next t) :
    d.toNat < s.params.descriptors.length ∧ ∃ ws rs,
      (ws = s.writeAnswers ∨ s.writeAnswers = none :: ws) ∧ (rs = s.readAnswers ∨ s.readAnswers = none :: rs) ∧
      t = { s with
        cmdreg := 0, status := Status.zero, result := 0, errinfo := ErrInfo.zero, cc := cc, devsel := d,
        data := freeData s.draws, pc := .idle, locals := freeLocals (s.draws + 256),
        draws := s.draws + 256 + freeLocalsSize, writeAnswers := ws, readAnswers := rs,
        answerDraws := s.answerDraws + 1 } := by
  have hd {α : Type} (b : Bool) (xs : List (Option α)) :
      (if b then dropNever xs else xs) = xs ∨ xs = none :: (if b then dropNever xs else xs) := by
    cases b
    · exact .inl rfl
    · exact dropNever_cases xs
  unfold controllerReset at h
  split at h
  · rename_i hlt
    simp only [Host.Outcome.next.injEq] at h
    exact ⟨hlt, _, _, hd _ _, hd _ _, h.symm⟩
  · simp at h

end Sys2Proof.Machine
end

