-- ==== Sys2Proof/Machine/Assembler.lean ====
section
/-! DEFINITION. The assembler syntax (R64), the pseudo-commands (R65) and the host directives (R66): a line of text
becomes a host move of a script. White space is blanks only; names and digits are as R64 writes them (log 26). -/

namespace Sys2Proof.Machine

/-- A mnemonic and how it is assembled: its opcode, and for a pseudo-command the space it stands for. -/
structure AsmName where
  name : List Char
  op : BitVec 4
  fixedSpace : Option Space

/-- The mnemonics (R61) and the pseudo-commands (R65). -/
def asmNames : List AsmName :=
  [⟨"READ_BYTES".toList, 0x1, none⟩, ⟨"WRITE_BYTES".toList, 0x2, none⟩, ⟨"READ_PAGE".toList, 0x3, none⟩,
   ⟨"IS_PAGE_WRITABLE".toList, 0x4, none⟩, ⟨"IS_PAGE_ERASED".toList, 0x5, none⟩, ⟨"ERASE_PAGE".toList, 0x6, none⟩,
   ⟨"PROGRAM_PAGE".toList, 0x7, none⟩, ⟨"PROGRAM_PAGES".toList, 0x8, none⟩, ⟨"RESET_DEVICE".toList, 0x9, none⟩,
   ⟨"SCAN_DEVICE".toList, 0xA, none⟩, ⟨"SCAN_DEVICES".toList, 0xB, none⟩,
   ⟨"PROGRAM_CONTROL_CODE".toList, 0xC, none⟩, ⟨"SET_CONTROL_CODE".toList, 0xD, none⟩,
   ⟨"SET_DEVICE".toList, 0xE, none⟩, ⟨"TRANSLATE".toList, 0xF, none⟩,
   ⟨"READ_REGISTER".toList, 0x1, some .register⟩, ⟨"READ_NVM".toList, 0x1, some .nvm⟩,
   ⟨"READ_EEPROM".toList, 0x1, some .eeprom⟩, ⟨"WRITE_REGISTER".toList, 0x2, some .register⟩,
   ⟨"PROGRAM_NVM".toList, 0x8, some .nvm⟩, ⟨"PROGRAM_EEPROM".toList, 0x8, some .eeprom⟩]

/-- A space as R64 writes it. -/
def asmSpace (t : List Char) : Option Space :=
  if t = "REG".toList then some .register
  else if t = "NVM".toList then some .nvm
  else if t = "EEPROM".toList then some .eeprom
  else none

/-- The value of a digit in a base of at most 16. -/
def digitValue (base : Nat) (ch : Char) : Option Nat :=
  let n := ch.toNat
  let v :=
    if 48 ≤ n ∧ n ≤ 57 then n - 48
    else if 65 ≤ n ∧ n ≤ 70 then n - 55
    else if 97 ≤ n ∧ n ≤ 102 then n - 87
    else 16
  if v < base then some v else none

/-- The number of a list of digits, after `acc`. -/
def digitsValue (base : Nat) : List Char → Nat → Option Nat
  | [], acc => some acc
  | ch :: rest, acc =>
    match digitValue base ch with
    | some v => digitsValue base rest (acc * base + v)
    | none => none

/-- An unsigned number in decimal or `0x` hexadecimal (R64). -/
def asmNumber : List Char → Option Nat
  | [] => none
  | ['0', 'x'] => none
  | '0' :: 'x' :: rest => digitsValue 16 rest 0
  | t => digitsValue 10 t 0

/-- A text without the blanks around it. -/
def trimBlanks (t : List Char) : List Char :=
  ((t.dropWhile (· == ' ')).reverse.dropWhile (· == ' ')).reverse

/-- The parts of a text between commas. -/
def splitCommas : List Char → List (List Char)
  | [] => [[]]
  | ch :: rest =>
    if ch = ',' then [] :: splitCommas rest
    else
      match splitCommas rest with
      | part :: parts => (ch :: part) :: parts
      | [] => [[ch]]

/-- The first word of a line, and its comma-separated operands; no operands where nothing follows the word. -/
def asmFields (line : List Char) : List Char × List (List Char) :=
  let t := trimBlanks line
  let word := t.takeWhile (· != ' ')
  let rest := trimBlanks (t.dropWhile (· != ' '))
  (word, if rest = [] then [] else (splitCommas rest).map trimBlanks)

/-- The SPACE operand, if the row takes one here (R64, R65). -/
def takeSpace (n : AsmName) (ops : List (List Char)) : Option (BitVec 2 × List (List Char)) :=
  if opUsesSpace n.op then
    match n.fixedSpace, ops with
    | some sp, _ => some (spaceCode sp, ops)
    | none, t :: rest => (asmSpace t).map (fun sp => (spaceCode sp, rest))
    | none, [] => none
  else some (0, ops)

/-- A numeric operand below `bound`, if the row takes it (R64: an operand that does not fit its field is refused). -/
def takeNumber (used : Bool) (bound : Nat) (ops : List (List Char)) : Option (Nat × List (List Char)) :=
  if used then
    match ops with
    | t :: rest =>
      match asmNumber t with
      | some v => if v < bound then some (v, rest) else none
      | none => none
    | [] => none
  else some (0, ops)

/-- The operands of a command in the order SPACE, ARG, COUNT, and the word they make (R58, R64). -/
def asmOperands (n : AsmName) (ops : List (List Char)) : Option Word :=
  match takeSpace n ops with
  | none => none
  | some (sp, ops1) =>
    match takeNumber (opUsesArg n.op) 256 ops1 with
    | none => none
    | some (arg, ops2) =>
      match takeNumber (opUsesCount n.op) 512 ops2 with
      | some (count, []) => some (packWord n.op sp (BitVec.ofNat 8 arg) (BitVec.ofNat 9 count))
      | _ => none

/-- The word of a command line, or none where an assembler refuses it (R64, R65). -/
def assemble (line : List Char) : Option Word :=
  match asmNames.find? (fun n => n.name == (asmFields line).1) with
  | some n => asmOperands n (asmFields line).2
  | none => none

/-- Bytes in the operands of a `.data` line (R66). DESIGN CHOICE: none is a list of bytes too (log 26). -/
def asmBytes : List (List Char) → Option (List Byte)
  | [] => some []
  | t :: rest =>
    match asmNumber t, asmBytes rest with
    | some v, some bs => if v < 256 then some (BitVec.ofNat 8 v :: bs) else none
    | _, _ => none

/-- The ASCII codes of a text up to its closing quote, which ends the line (R66; 93_implementation_defined.md G3). DESIGN
CHOICE: the text may be empty (log 26). -/
def asmString : List Char → Option (List Byte)
  | [] => none
  | ['"'] => some []
  | ch :: rest =>
    match asmString rest with
    | some bs => if ch.toNat < 128 ∧ ch ≠ '"' then some (BitVec.ofNat 8 ch.toNat :: bs) else none
    | none => none

/-- A `.string` line after its directive: an index, a comma, and a quoted text (R66). -/
def asmStringLine (t : List Char) : Option HostMove :=
  match asmNumber (trimBlanks (t.takeWhile (· != ','))), trimBlanks ((t.dropWhile (· != ',')).drop 1) with
  | some o, '"' :: text => (asmString text).map (fun bs => .directive o bs)
  | _, _ => none

/-- One line of a host script (R66), or none where it is refused. DESIGN CHOICE: a `.data` line may list no byte after its
index, and is then a directive that stores nothing; a line that is empty is refused (log 26). -/
def scriptLine (line : List Char) : Option HostMove :=
  let fields := asmFields line
  if fields.1 = ".data".toList then
    match fields.2 with
    | t :: rest =>
      match asmNumber t, asmBytes rest with
      | some o, some bs => some (.directive o bs)
      | _, _ => none
    | [] => none
  else if fields.1 = ".string".toList then asmStringLine (trimBlanks ((trimBlanks line).drop 7))
  else (assemble line).map .command

/-- The turns of a script, line by line; none where a line is refused. -/
def scriptTurns : List (List Char) → Option (List Turn)
  | [] => some []
  | line :: rest =>
    match scriptLine line, scriptTurns rest with
    | some m, some ts => some (.host m :: ts)
    | _, _ => none

/-- A script has ended (R66): every line has been taken and BUSY = 0. -/
def scriptEnded (s : State) : Bool := s.schedule == [] && !s.status.busy

end Sys2Proof.Machine
end

