-- ==== Sys2Proof/Tests/Slice0.lean ====
section
/-! SUPPORT. Tests on single steps, whose expected values are the spec's (95_test_vectors.md, by the vector's name), and
for every statement with hypotheses a witness that meets them. -/

namespace Sys2Proof.Tests

open Sys2Proof.Machine Sys2Proof.Safety

/-! ### Well-formedness: the reserved row's command stands for no legal word -/

theorem test_wellFormed_refuses_legal_readBytes : WellFormed (.illegal 0x00102011) = false := by decide
theorem test_wellFormed_refuses_legal_resetDevice : WellFormed (.illegal 0x00000009) = false := by decide
theorem test_wellFormed_accepts_space3 : WellFormed (.illegal 0x00000031) = true := by decide

/-! ### Decoding, each word written out from R58 and R61 -/

/-- COUNT 16, ARG 0x20, SPACE 01, OP 0x1, the least significant byte first. -/
theorem test_decode_readBytes :
    decode [0b00010001, 0x20, 0x10, 0x00] = .ok (.readBytes .nvm 0x20 16) := by decide
theorem test_decode_writeBytes : decodeWord 0x00021002 = .writeBytes .register 0x10 2 := by decide
theorem test_decode_readPage : decodeWord 0x00000323 = .readPage .eeprom 3 := by decide
theorem test_decode_isPageWritable : decodeWord 0x00000F14 = .isPageWritable .nvm 15 := by decide
theorem test_decode_isPageErased : decodeWord 0x00000015 = .isPageErased .nvm 0 := by decide
theorem test_decode_erasePage : decodeWord 0x00000216 = .erasePage .nvm 2 := by decide
theorem test_decode_programPage : decodeWord 0x00000217 = .programPage .nvm 2 := by decide
theorem test_decode_programPages : decodeWord 0x00200228 = .programPages .eeprom 2 32 := by decide
theorem test_decode_resetDevice : decodeWord 0x00000009 = .resetDevice := by decide
theorem test_decode_scanDevice : decodeWord 0x0000030A = .scanDevice 3 := by decide
theorem test_decode_scanDevices : decodeWord 0x0000000B = .scanDevices := by decide
theorem test_decode_programControlCode : decodeWord 0x01FF000C = .programControlCode 511 := by decide
theorem test_decode_setControlCode : decodeWord 0x0000040D = .setControlCode 4 := by decide
theorem test_decode_setDevice : decodeWord 0x0008000E = .setDevice 8 := by decide
theorem test_decode_translate : decodeWord 0x0000FF0F = .translate .register 255 := by decide

/-- V-ENC-1, -3 to -10, -13, -15. -/
theorem test_decode_illegal :
    let words : List Word := [0x00000000, 0x00000031, 0x00000041, 0x02000001, 0x00010009, 0x0000010B, 0x0000001A,
      0x0001000D, 0x0000010C, 0x0000003F, 0x00000080]
    words.map decodeWord = words.map .illegal := by decide

/-- A byte list that is no word is rejected by name. -/
theorem test_decode_length : decode [0x09] = .error (.notOneWord 1) := by decide

theorem test_decodeTableWord : decodeTableWord 32 0x00102011 = some (.readBytes .nvm 0x20 16) := by decide

/-! ### The assembler (the table of 95_test_vectors.md, R65, R66) -/

theorem test_assemble_operands :
    assemble "READ_BYTES NVM, 0x20, 16".toList = some 0x00102011 ∧
    assemble "PROGRAM_PAGES EEPROM, 2, 32".toList = some 0x00200228 ∧
    assemble "SCAN_DEVICE 3".toList = some 0x0000030A ∧ assemble "RESET_DEVICE".toList = some 0x00000009 := by
  decide

theorem test_assemble_pseudo :
    assemble "PROGRAM_NVM 0, 16".toList = some 0x00100018 ∧ assemble "READ_NVM 0, 16".toList = some 0x00100011 ∧
    assemble "WRITE_REGISTER 0xE3, 1".toList = some 0x0001E302 := by decide

/-- R64: an operand that does not fit its field is refused. -/
theorem test_assemble_refuses :
    assemble "SCAN_DEVICE 256".toList = none ∧ assemble "SET_DEVICE 512".toList = none ∧
    assemble "RESET_DEVICE 1".toList = none ∧ assemble "READ_PAGE 3".toList = none := by decide

theorem test_scriptLine :
    scriptLine ".data 0, 0x5A, 16".toList = some (.directive 0 [0x5A, 0x10]) ∧
    scriptLine ".string 2, \"01XX\"".toList = some (.directive 2 [0x30, 0x31, 0x58, 0x58]) ∧
    scriptLine "TRANSLATE NVM, 1".toList = some (.command 0x0000011F) ∧
    scriptLine ".data 7".toList = some (.directive 7 []) := by decide

/-! ### The fixture (92_eei_decisions.md D32) and small states -/

/-- A fixture descriptor of the given name. -/
def fixtureDescriptor (name : List Byte) : DeviceDescriptor where
  name := name
  readOnlyNvmPages := [15]
  eraseTriggerAddress := 0xE3
  eraseTriggerMask := 0x80
  controlCodeAddress := 0xCA
  defaultImage := (List.range 256).map (fun a => if a / 16 = 12 then BitVec.ofNat 8 (0xA0 + a % 16) else 0)

/-- DESCRIPTORS_TEST, with the parameters' defaults. -/
def fixtureParams : Params :=
  { Config.defaultParams with
    descriptors := [fixtureDescriptor [0x54, 0x45, 0x53, 0x54, 0x44, 0x45, 0x56],
      fixtureDescriptor [0x53, 0x4C, 0x47, 0x34, 0x36, 0x38, 0x32, 0x36]] }

/-- S0, the vectors' start state. -/
def s0 : State := { State.reset with params := fixtureParams, cc := 1 }

/-- S0 with a command at a label, and the PSTATE of that label. -/
def busyAt (w : Word) (l : Label) : State :=
  { s0 with
    cmdreg := w
    pc := .resume l
    status := { Status.zero with busy := true, pstate := labelPState l } }

/-- The page procedure in progress is that of a page. -/
def onPage (sp : Space) (p : Page) (s : State) : State :=
  { s with status := { s.status with ppage := p, pspace := sp }, locals := { s.locals with p := p } }

/-- The next write is answered. -/
def answerWrite (ok : Bool) (s : State) : State := { s with writeAnswers := [some ok] }

/-- The next read is answered. -/
def answerRead (r : ReadReply) (s : State) : State := { s with readAnswers := [some r] }

/-- One host move is the next turn. -/
def hostTurn (m : HostMove) (s : State) : State := { s with schedule := [.host m] }

/-- DATA holds bytes from index 0 on. -/
def holding (bs : List Byte) (s : State) : State := { s with data := Memory.writeList [] 0 bs }

/-- The page 00 01 … 0F of the vectors. -/
def countingPage : List Byte := (List.range 16).map (BitVec.ofNat 8)

/-- A page of one byte. -/
def pageOf (b : Byte) : List Byte := List.replicate 16 b

/-- RESULT, STATUS and ERRINFO after a step that answers a next state. -/
def report : Result → Option (Word × Word × Word)
  | .next t => some (t.result, t.status.word, t.errinfo.word)
  | _ => none

/-- The trace after a step that answers a next state. -/
def traceOf : Result → List Event
  | .next t => t.trace
  | _ => []

/-! ### One step of each command -/

/-- V-RB-1, last step. -/
theorem test_readBytes_ends :
    report (exec (.readBytes .nvm 0x20 16) (answerRead (.bytes countingPage) (busyAt 0x00102011 .rb2))) =
      some (0, 0x00000002, 0) := by decide

/-- V-RB-9. -/
theorem test_readBytes_short :
    report (exec (.readBytes .nvm 0x20 16) (answerRead (.bytes (countingPage.take 15)) (busyAt 0x00102011 .rb2))) =
      some (0, 0x00000012, 0x0000208A) := by decide

/-- V-WB-1. -/
theorem test_writeBytes_sends :
    traceOf (exec (.writeBytes .register 0x10 2)
      (holding [0xAA, 0x55] (answerWrite true (busyAt 0x00021002 .wb1)))) =
      [.write 0x08 [0x10, 0xAA, 0x55] true] := by decide

/-- V-WB-6. -/
theorem test_writeBytes_unaligned :
    report (exec (.writeBytes .nvm 0x28 16) (busyAt 0x00102812 .start)) = some (0, 0x00000072, 0) := by
  decide

/-- V-RP-1, first event. -/
theorem test_readPage_address :
    traceOf (exec (.readPage .eeprom 3) { answerWrite true (busyAt 0x00000323 .rb1) with cc := 2 }) =
      [.write 0x13 [0x30] true] := by decide

/-- V-RP-4. -/
theorem test_readPage_16 :
    report (exec (.readPage .nvm 16) (busyAt 0x00001013 .start)) = some (0, 0x00000072, 0) := by decide

/-- V-IW-1. -/
theorem test_isPageWritable_nvm15 :
    report (exec (.isPageWritable .nvm 15) (busyAt 0x00000F14 .start)) = some (0, 0x00000002, 0) := by
  decide

/-- V-IW-4. -/
theorem test_isPageWritable_reg15 :
    report (exec (.isPageWritable .register 15) (busyAt 0x00000F04 .start)) = some (1, 0x00000002, 0) := by
  decide

/-- V-IE-1, last step. -/
theorem test_isPageErased_zero :
    report (exec (.isPageErased .nvm 0) (answerRead (.bytes (pageOf 0)) (busyAt 0x00000015 .rb2))) =
      some (1, 0x00000002, 0) := by decide

/-- V-IE-2, last step: byte 5 is 0x01. -/
theorem test_isPageErased_notZero :
    report (exec (.isPageErased .nvm 0) (answerRead (.bytes ((pageOf 0).set 5 1)) (busyAt 0x00000015 .rb2))) =
      some (0, 0x00000002, 0) := by decide

/-- V-EP-3. -/
theorem test_erasePage_readOnly :
    report (exec (.erasePage .nvm 15) (busyAt 0x00000F16 .start)) = some (0, 0x0001F722, 0x00001F00) := by
  decide

/-- V-EP-5, last step: trigger byte 0x82, status and error information. -/
theorem test_erasePage_triggerFails :
    let r := exec (.erasePage .nvm 2) (answerWrite false (onPage .nvm 2 (busyAt 0x00000216 (.erase .e2Wb1))))
    traceOf r = [.write 0x08 [0xE3, 0x82] false] ∧ report r = some (0, 0x00012712, 0x00001208) := by decide

/-- V-PG-3, last step. -/
theorem test_programPage_verified :
    report (exec (.programPage .nvm 2)
      { answerRead (.bytes countingPage) (holding countingPage (onPage .nvm 2 (busyAt 0x00000217 (.page .p5Rb2)))) with
        locals := { Locals.zero with erasedNow := true } }) = some (3, 0x00012602, 0) := by decide

/-- V-PG-6, last step. -/
theorem test_programPage_verifyFails :
    report (exec (.programPage .nvm 2)
      (answerRead (.bytes (pageOf 0xFF)) (holding countingPage (onPage .nvm 2 (busyAt 0x00000217 (.page .p5Rb2)))))) =
      some (0, 0x00012742, 0x00001200) := by decide

/-- L1-4 (b), the default policy. -/
theorem test_programPages_skip :
    report (exec (.programPages .nvm 15 16) (busyAt 0x00100F18 .start)) = some (0x00008000, 0x00000002, 0) := by
  decide

/-- L1-4 (b), RO_POLICY = Fail. -/
theorem test_programPages_fail :
    report (exec (.programPages .nvm 15 16)
      { busyAt 0x00100F18 .start with params := { fixtureParams with roPolicy := .fail } }) =
      some (0, 0x00000022, 0x00001F00) := by decide

/-- R90 X1. -/
theorem test_resetDevice_write :
    traceOf (exec .resetDevice (answerWrite true (busyAt 0x00000009 .x1Wb1))) = [.write 0x08 [0xC8, 0x02] true] := by
  decide

/-- R90 X2. -/
theorem test_resetDevice_ends :
    let r := exec .resetDevice (busyAt 0x00000009 .x2)
    traceOf r = [.wait .reset] ∧ report r = some (0, 0x00000002, 0) := by decide

/-- P5 lines 3 and 4: a false answer is RESULT 0, no error; a true answer is RESULT 1. -/
theorem test_scanDevice :
    report (exec (.scanDevice 1) (answerWrite false (busyAt 0x0000010A .s1))) = some (0, 0x00000002, 0) ∧
    report (exec (.scanDevice 1) (answerWrite true (busyAt 0x0000010A .s1))) = some (1, 0x00000002, 0) := by
  decide

/-- L1-8, last step. -/
theorem test_scanDevices_ends :
    let r := exec .scanDevices
      { answerWrite false (busyAt 0x0000000B .scan) with locals := { Locals.zero with found := 0b1010, c := 15 } }
    report r = some (0x0002000A, 0x00000002, 0) ∧
      (match r with | .next t => t.dataSlice 0 3 | _ => []) = [1, 3, 0] := by decide

/-- L1-6: the packed bytes of "01XX", "0000", "1111" and "XXXX". -/
theorem test_parseSpec :
    parseSpec [0x30, 0x31, 0x58, 0x58] = some 0x34 ∧ parseSpec [0x30, 0x30, 0x30, 0x30] = some 0x00 ∧
    parseSpec [0x31, 0x31, 0x31, 0x31] = some 0x0F ∧ parseSpec [0x58, 0x58, 0x58, 0x58] = some 0xF0 := by decide

/-- L1-6: the page that "01XX" programs. -/
theorem test_programControlCode_image :
    (match exec (.programControlCode 4) (holding [0x30, 0x31, 0x58, 0x58] (busyAt 0x0004000C .start)) with
      | .next t => some (t.locals.img, t.locals.p)
      | _ => none) =
      some ([0xA0, 0xA1, 0xA2, 0xA3, 0xA4, 0xA5, 0xA6, 0xA7, 0xA8, 0xA9, 0x34, 0xAB, 0xAC, 0xAD, 0xAE, 0xAF], 12) := by
  decide

/-- L1-7, "0 1X". -/
theorem test_programControlCode_invalid :
    report (exec (.programControlCode 4) (holding [0x30, 0x20, 0x31, 0x58] (busyAt 0x0004000C .start))) =
      some (0, 0x00000052, 0) := by decide

theorem test_setControlCode :
    (match exec (.setControlCode 4) (busyAt 0x0000040D .start) with | .next t => some t.cc | _ => none) = some 4 := by
  decide

theorem test_setControlCode_16 :
    report (exec (.setControlCode 16) (busyAt 0x0000100D .start)) = some (0, 0x00000072, 0) := by decide

/-- "SLG46826" is entry 1. -/
theorem test_setDevice :
    (match exec (.setDevice 8) (holding [0x53, 0x4C, 0x47, 0x34, 0x36, 0x38, 0x32, 0x36] (busyAt 0x0008000E .start)) with
      | .next t => some t.devsel
      | _ => none) = some 1 := by decide

/-- No entry has an empty name. -/
theorem test_setDevice_unknown :
    report (exec (.setDevice 0) (busyAt 0x0000000E .start)) = some (0, 0x00000062, 0) := by decide

/-- V-XL-2. -/
theorem test_translate :
    report (exec (.translate .eeprom 15) (busyAt 0x00000F2F .start)) = some (0x7B, 0x00000002, 0) := by decide

/-- V-XL-4. -/
theorem test_translate_16 :
    report (exec (.translate .eeprom 16) (busyAt 0x0000102F .start)) = some (0, 0x00000072, 0) := by decide

/-- V-ENC-1. -/
theorem test_illegal : report (exec (.illegal 0) (busyAt 0 .start)) = some (0, 0x00000082, 0) := by decide

/-! ### The host port -/

/-- V-H-2. -/
theorem test_hostWrite_data :
    (match step (hostTurn (.write 0x100 0x44332211) s0) with | .next t => t.dataSlice 0 4 | _ => []) =
      [0x11, 0x22, 0x33, 0x44] := by decide

/-- R21, R107: the host polls BUSY in STATUS while a command runs. -/
theorem test_hostRead_busy :
    (match step (hostTurn (.read 0x004) (busyAt 0x00000009 .x2)) with | .next t => some t.hostRead | _ => none) =
      some 0x00000001 := by decide

/-- V-H-3: the write is ignored, and OVERRUN is set beside BUSY. -/
theorem test_hostWrite_busy :
    (match step (hostTurn (.write 0x000 0x0000040D) (busyAt 0x00000009 .start)) with
      | .next t => some (t.cmdreg, t.cc, t.status.word)
      | _ => none) = some (0x00000009, 1, 0x00000005) := by decide

/-! ### Witnesses: encoding, translator, lifecycle -/

/-- A busy state at a label is sound when these closed facts hold of it. -/
theorem sound_at {s : State} {l : Label} (hpc : s.pc = .resume l) (hp : s.params.wf)
    (hdev : s.devsel.toNat < s.params.descriptors.length) (hdata : s.data.wf)
    (hst : s.status.busy = true ∧ s.status.done = false ∧ s.status.err = .none ∧ s.errinfo = ErrInfo.zero)
    (hl : legalLabel s.command l = true ∧ s.status.pstate = labelPState l)
    (hj : inPageProcedure l = true →
      ∃ j, pageJob s = some j ∧ s.status.ppage = j.page ∧ s.status.pspace = j.space)
    (hr : ∀ l', l = .pages l' →
      (∃ r, pageRange s = some r ∧ s.locals.i.toNat < r.2 ∧ s.locals.p.toNat = r.1 + s.locals.i.toNat) ∧
      s.result = resultBitmaps s.locals.programmed s.locals.skipped)
    (h0 : l = .start → s.result = 0) : Sound s where
  params_wf := hp
  devsel_lt := hdev
  data_wf := hdata
  idle_iff := by simp [hpc, hst.1]
  busy_clear := fun _ => hst.2
  label_legal := by intro l' h; cases hpc.symm.trans h; exact hl.1
  pstate_label := by intro l' h; cases hpc.symm.trans h; exact hl.2
  page_named := by intro l' h; cases hpc.symm.trans h; exact hj
  page_in_range := by intro l' h; cases hpc.symm.trans h; exact (hr l' rfl).1
  start_result := by intro h; cases hpc.symm.trans h; exact h0 rfl
  pages_result := by intro l' h; cases hpc.symm.trans h; exact (hr l' rfl).2

/-- The history of a state whose page procedure is known. -/
theorem history_at {s : State} {d : DeviceDescriptor} {j : PageJob} (hd : s.desc? = some d) (hj : pageJob s = some j)
    (h : match s.pc with
      | .resume (.erase l) => pageWritable d j.space j.page = true ∧ eraseHistory s d j l
      | .resume (.page l) => pageWritable d j.space j.page = true ∧ pageHistory s d j l
      | .resume (.pages l) => pageWritable d j.space j.page = true ∧ pageHistory s d j l
      | _ => True) : History s := by
  intro d' j' hd' hj'
  cases hd.symm.trans hd'
  cases hj.symm.trans hj'
  exact h

theorem witness_DecodeUndoesEncode :
    WellFormed (.programPages .eeprom 0xFF 511) = true ∧ WellFormed (.illegal 0x00000031) = true := by decide

theorem witness_TranslatorLaws : Machine.translate .eeprom 15 = Machine.translate .eeprom 15 := rfl

theorem witness_TranslateReportsAddress :
    (busyAt 0x00000F2F .start).pc = .resume .start ∧ (15#8).toNat ≤ 15 ∧ 15 < (16#8).toNat := by decide

theorem witness_AcceptanceStartsTheCommand :
    ((hostTurn (.write 0x000 0x9) s0).schedule = .host (.write 0x000 0x9) :: [] ∧
      (hostTurn (.write 0x000 0x9) s0).status.busy = false) ∧
    ((hostTurn (.write 0x100 0) (busyAt 0x9 .start)).status.busy = true ∧ (HostMove.write 0x100 0).waits = false ∧
      (∀ d cc, HostMove.write 0x100 0 ≠ .reset d cc) ∧
      ∃ t, step (hostTurn (.write 0x100 0) (busyAt 0x9 .start)) = .next t) ∧
    (HostMove.command 0x9).waits = true ∧ (∀ d cc, HostMove.command 0x9 ≠ .reset d cc) :=
  ⟨⟨rfl, rfl⟩, ⟨rfl, rfl, nofun, _, rfl⟩, rfl, nofun⟩

theorem witness_RaiseRecordsTheError :
    Error.transport 8 true true = .transport 8 true true ∧ (∀ a r m, Error.precondition ≠ .transport a r m) ∧
    Error.readOnlyPage 15 = .readOnlyPage 15 ∧
    (∀ p, Error.precondition ≠ .readOnlyPage p ∧ Error.precondition ≠ .eraseVerification p ∧
      Error.precondition ≠ .programVerification p) ∧
    (busyAt 0x216 (.erase .e1Rb1)).status.pstate ≠ .none ∧ s0.status.pstate = .none :=
  ⟨rfl, nofun, rfl, fun _ => ⟨nofun, nofun, nofun⟩, by decide, rfl⟩

/-! ### Witnesses: every command -/

theorem fixtureParams_wf : fixtureParams.wf := by decide +kernel

theorem fixture_devsel : (0 : Byte).toNat < fixtureParams.descriptors.length := by decide

theorem emptyData_wf : Memory.wf [] := by decide

/-- A command at its first step in S0 is sound. -/
theorem sound_start (w : Word) : Sound (busyAt w .start) :=
  sound_at rfl fixtureParams_wf fixture_devsel emptyData_wf ⟨rfl, rfl, rfl, rfl⟩
    ⟨by simp only [legalLabel], rfl⟩ nofun nofun (fun _ => rfl)

theorem history_start (w : Word) : History (busyAt w .start) := fun _ _ _ _ => trivial

/-- A READ_BYTES at its transactions in S0, whatever the transport will answer and the host will do. -/
theorem sound_readBytes (l : Label) (hl : l = .rb1 ∨ l = .rb2) (ws : List (Option Bool)) (rs : List (Option ReadReply))
    (sch : List Turn) :
    Sound { busyAt 0x00102011 l with writeAnswers := ws, readAnswers := rs, schedule := sch } := by
  rcases hl with rfl | rfl <;>
  exact sound_at rfl fixtureParams_wf fixture_devsel emptyData_wf ⟨rfl, rfl, rfl, rfl⟩
    ⟨(by decide : legalLabel (decodeWord 0x00102011) _ = true), rfl⟩ nofun nofun (fun _ => rfl)

/-- PROGRAM_PAGES NVM, 15, 16 at its first step under RO_POLICY = Fail. -/
def failPolicy : State := { busyAt 0x00100F18 .start with params := { fixtureParams with roPolicy := .fail } }

theorem sound_failPolicy : Sound failPolicy :=
  sound_at rfl (by decide +kernel) fixture_devsel emptyData_wf ⟨rfl, rfl, rfl, rfl⟩ ⟨by decide, rfl⟩
    nofun nofun (fun _ => rfl)

theorem witness_CommandsRaiseOnlyTheirErrors :
    (Sound (busyAt 0 .start) ∧ History (busyAt 0 .start) ∧ (busyAt 0 .start).pc ≠ .idle ∧
      ∃ t, exec (busyAt 0 .start).command (busyAt 0 .start) = .next t ∧ t.status.err ≠ .none) ∧
    (Sound failPolicy ∧ History failPolicy ∧ failPolicy.pc ≠ .idle ∧
      (∀ sp p, failPolicy.command ≠ .erasePage sp p ∧ failPolicy.command ≠ .programPage sp p) ∧
      ∃ t, exec failPolicy.command failPolicy = .next t ∧ t.status.err = .readOnlyPageError) := by
  have hc : failPolicy.command = .programPages .nvm 15 16 := by decide
  refine ⟨⟨sound_start 0, history_start 0, nofun, _, rfl, nofun⟩, sound_failPolicy, fun _ _ _ _ => trivial, nofun, ?_,
    _, rfl, by decide⟩
  rw [hc]
  exact fun _ _ => ⟨nofun, nofun⟩

theorem witness_EarlyErrorsTouchNoBus :
    (busyAt 0 .start).pc = .resume .start ∧ (busyAt 0 .start).status.err = .none ∧
    ∃ t, exec (.illegal 0) (busyAt 0 .start) = .next t ∧ firstStepError t.status.err = true := ⟨rfl, rfl, _, rfl, rfl⟩

theorem witness_TransportErrorNamesTheTransaction :
    (∃ s t, Sound s ∧ s.pc = .resume .rb1 ∧ exec s.command s = .next t ∧ t.status.err = .transportError) ∧
    (∃ s t, Sound s ∧ s.pc = .resume .rb2 ∧ exec s.command s = .next t ∧ t.status.err = .transportError ∧
      t.errinfo.lengthMismatch = false) ∧
    (∃ s t, Sound s ∧ s.pc = .resume .rb2 ∧ exec s.command s = .next t ∧ t.status.err = .transportError ∧
      t.errinfo.lengthMismatch = true) :=
  ⟨⟨_, _, sound_readBytes .rb1 (.inl rfl) [some false] [] [], rfl, rfl, by decide⟩,
   ⟨_, _, sound_readBytes .rb2 (.inr rfl) [] [some .fail] [], rfl, rfl, by decide, by decide⟩,
   ⟨_, _, sound_readBytes .rb2 (.inr rfl) [] [some (.bytes [1])] [], rfl, rfl, by decide, by decide⟩⟩

theorem witness_IllegalCommandIsRaised : (busyAt 0 .start).pc = .resume .start := rfl

theorem witness_StepRunsTheDecodedCommand :
    decodeWord (busyAt 0x9 .start).cmdreg = .resetDevice ∧ (busyAt 0x9 .start).pc = .resume .start ∧
    (busyAt 0x9 .start).schedule = [] ∧ (hostTurn (.command 0x9) (busyAt 0x9 .start)).status.busy = true ∧
    (HostMove.command 0x9).waits = true ∧
    ({ busyAt 0x9 .start with schedule := [.sequencer] } : State).schedule = .sequencer :: [] := by
  decide

theorem witness_HungTransportChangesNothing :
    (∃ s : State, Sound s ∧ Hung s ∧ s.readAnswers = [some .fail] ∧ ∃ t, step s = .next t) ∧
    (∃ s : State, Sound s ∧ Hung s ∧ s.writeAnswers = [some true] ∧ ∃ t, step s = .next t) ∧
    (∃ s : State, Sound s ∧ Hung s ∧ s.schedule = .host (.reset 0 1) :: [] ∧ ∃ t, step s = .next t) :=
  ⟨⟨_, sound_readBytes .rb1 (.inl rfl) [none] [some .fail] [], .inl ⟨rfl, rfl⟩, rfl, _, rfl⟩,
   ⟨_, sound_readBytes .rb2 (.inr rfl) [some true] [none] [], .inr ⟨rfl, rfl⟩, rfl, _, rfl⟩,
   ⟨_, sound_readBytes .rb2 (.inr rfl) [] [none] [.host (.reset 0 1)], .inr ⟨rfl, rfl⟩, rfl, _, rfl⟩⟩

theorem witness_CommandsLeaveTheSession :
    (∃ t, exec .resetDevice (busyAt 0x9 .start) = .next t) ∧ (∀ cc, Instr.resetDevice ≠ .setControlCode cc) ∧
    (∀ n, Instr.resetDevice ≠ .setDevice n) ∧ (∀ sp a n, Instr.resetDevice ≠ .readBytes sp a n) ∧
    (∀ sp p, Instr.resetDevice ≠ .readPage sp p) ∧ Instr.resetDevice ≠ .scanDevices :=
  ⟨⟨_, rfl⟩, nofun, nofun, nofun, nofun, nofun⟩

theorem witness_EndOfCommandIsReported :
    (∃ t, exec .resetDevice (busyAt 0x9 .x2) = .next t ∧ t.pc = .idle) ∧
    (∃ t, exec .resetDevice (busyAt 0x9 .start) = .next t ∧ t.pc ≠ .idle) :=
  ⟨⟨_, rfl, rfl⟩, ⟨_, rfl, nofun⟩⟩

theorem witness_TransactionsGoToTheSessionDevice :
    (∃ t, exec (.readBytes .eeprom 0 1) (answerWrite true (busyAt 0x00010021 .rb1)) = .next t ∧
      t.trace = (answerWrite true (busyAt 0x00010021 .rb1)).trace ++ [.write 0x0B [0] true]) ∧
    (∀ cc, Instr.readBytes .eeprom 0 1 ≠ .scanDevice cc) ∧ Instr.readBytes .eeprom 0 1 ≠ .scanDevices :=
  ⟨⟨_, rfl, by decide⟩, nofun, nofun⟩

/-! ### Witnesses: the bus primitives -/

theorem witness_AnswersComeFromTheTransport :
    (answerWrite true s0).writeAnswers = some true :: [] ∧ (∃ t, takeWriteAnswer (answerWrite true s0) = some (true, t)) ∧
    (answerRead (.bytes (List.replicate 256 7)) s0).readAnswers = some (.bytes (List.replicate 256 7)) :: [] ∧
    (List.replicate 256 (7 : Byte)).length ≤ 256 ∧
    (∃ t, takeReadAnswer (answerRead (.bytes [7]) s0) = some (.bytes [7], t)) ∧
    (answerRead .fail s0).readAnswers = some .fail :: [] ∧
    ({ s0 with writeAnswers := [none] } : State).writeAnswers = none :: [] ∧
    ({ s0 with readAnswers := [none] } : State).readAnswers = none :: [] :=
  ⟨rfl, ⟨_, rfl⟩, rfl, by decide +kernel, ⟨_, rfl⟩, rfl, rfl, rfl⟩

theorem witness_PrimitivesRecordTheirEvents :
    (∃ t, takeWriteAnswer (answerWrite true s0) = some (true, t)) ∧
    (List.replicate 257 (0 : Byte)).length ≤ (answerWrite true s0).params.maxWrite ∧
    (answerWrite true s0).params.maxWrite < (List.replicate 258 (0 : Byte)).length ∧
    (∃ t, takeReadAnswer (answerRead .fail s0) = some (.fail, t)) ∧
    takeWriteAnswer { s0 with writeAnswers := [none] } = none ∧ takeReadAnswer { s0 with readAnswers := [none] } = none :=
  ⟨⟨_, rfl⟩, by decide +kernel, by decide +kernel, ⟨_, rfl⟩, rfl, rfl⟩

/-! ### Witnesses: raw access -/

/-- The fixture's first descriptor. -/
def fixtureFirst : DeviceDescriptor := fixtureDescriptor [0x54, 0x45, 0x53, 0x54, 0x44, 0x45, 0x56]

theorem s0_desc : s0.desc? = some fixtureFirst := rfl

/-- A read that the script answers with at most 256 bytes is answered so. -/
theorem answered_read {s : State} {xs : List Byte} {rest : List (Option ReadReply)}
    (h : s.readAnswers = some (.bytes xs) :: rest) (hx : xs.length ≤ 256) (a7 : Addr7) (n : Nat) :
    ∃ t, busRead a7 n s = some (.bytes xs, t) :=
  ⟨_, by rw [busRead_script h, boundReply_of_le hx]⟩

/-- A write within MAX_WRITE that the script answers is answered so. -/
theorem answered_write {s : State} {ok : Bool} {bytes : List Byte} {rest : List (Option Bool)}
    (h : s.writeAnswers = some ok :: rest) (hb : bytes.length ≤ s.params.maxWrite) (a7 : Addr7) :
    ∃ t, busWrite a7 bytes s = some (ok, t) :=
  ⟨_, by rw [busWrite_script h, decide_eq_true hb, Bool.and_true]⟩

/-- A sound state at a label of each command that runs a page procedure, for NVM page 2 (page 12 for
PROGRAM_CONTROL_CODE), whatever the transport will answer and DATA or the locals hold. -/
def procedureAt (w : Word) (p : Page) (l : Label) (ws : List (Option Bool)) (rs : List (Option ReadReply)) : State :=
  { onPage .nvm p (busyAt w l) with writeAnswers := ws, readAnswers := rs }

theorem test_decode_programPages_nvm : decodeWord 0x00200218 = .programPages .nvm 2 32 := by decide

theorem test_decode_programControlCode_4 : decodeWord 0x0004000C = .programControlCode 4 := by decide

theorem job_erase (l : Label) (ws : List (Option Bool)) (rs : List (Option ReadReply)) :
    pageJob (procedureAt 0x00000216 2 l ws rs) = some ⟨.nvm, 2, []⟩ := by
  rw [pageJob, show (procedureAt _ 2 l ws rs).command = _ from test_decode_erasePage]
  rfl

theorem job_page (l : Label) (ws : List (Option Bool)) (rs : List (Option ReadReply)) :
    pageJob (procedureAt 0x00000217 2 l ws rs) = some ⟨.nvm, 2, pageOf 0⟩ := by
  rw [pageJob, show (procedureAt _ 2 l ws rs).command = _ from test_decode_programPage]
  rfl

theorem job_pages (l : Label) (ws : List (Option Bool)) (rs : List (Option ReadReply)) :
    pageJob (procedureAt 0x00200218 2 l ws rs) = some ⟨.nvm, 2, pageOf 0⟩ := by
  rw [pageJob, show (procedureAt _ 2 l ws rs).command = _ from test_decode_programPages_nvm]
  rfl

theorem job_code (l : Label) (ws : List (Option Bool)) (rs : List (Option ReadReply)) :
    pageJob (procedureAt 0x0004000C 12 l ws rs) = some ⟨.nvm, 12, pageOf 0⟩ := by
  rw [pageJob, show (procedureAt _ 12 l ws rs).command = _ from test_decode_programControlCode_4]
  rfl

/-- Such a state is sound when its command is known. -/
theorem sound_procedure {w : Word} {i : Instr} {p : Page} {l : Label} {ws : List (Option Bool)}
    {rs : List (Option ReadReply)} {target : List Byte} (hc : decodeWord w = i) (hl : legalLabel i l = true)
    (hj : pageJob (procedureAt w p l ws rs) = some ⟨.nvm, p, target⟩) (h0 : l ≠ .start)
    (hr : ∀ l', l = .pages l' → (procedureAt w p l ws rs).command = i →
      ∃ r, pageRange (procedureAt w p l ws rs) = some r ∧ 0 < r.2 ∧ p.toNat = r.1) :
    Sound (procedureAt w p l ws rs) :=
  sound_at (l := l) rfl fixtureParams_wf fixture_devsel emptyData_wf ⟨rfl, rfl, rfl, rfl⟩
    ⟨show legalLabel (decodeWord w) l = true from hc ▸ hl, rfl⟩ (fun _ => ⟨_, hj, rfl, rfl⟩)
    (fun l' h => ⟨hr l' h hc, (by decide : (0 : Word) = resultBitmaps 0 0)⟩) (fun h => absurd h h0)

theorem sound_erase (l : EraseLabel) (ws : List (Option Bool)) (rs : List (Option ReadReply)) :
    Sound (procedureAt 0x00000216 2 (.erase l) ws rs) :=
  sound_procedure test_decode_erasePage (by simp only [legalLabel]; decide) (job_erase _ _ _) nofun nofun

theorem sound_page (l : PageLabel) (ws : List (Option Bool)) (rs : List (Option ReadReply)) :
    Sound (procedureAt 0x00000217 2 (.page l) ws rs) :=
  sound_procedure test_decode_programPage (by simp only [legalLabel]; decide) (job_page _ _ _) nofun nofun

theorem sound_pages (l : PageLabel) (ws : List (Option Bool)) (rs : List (Option ReadReply)) :
    Sound (procedureAt 0x00200218 2 (.pages l) ws rs) :=
  sound_procedure test_decode_programPages_nvm (by simp only [legalLabel]; decide) (job_pages _ _ _) nofun
    (fun _ _ h => ⟨(2, 2), by rw [pageRange, h]; rfl, by decide, rfl⟩)

theorem sound_code (l : PageLabel) (ws : List (Option Bool)) (rs : List (Option ReadReply)) :
    Sound (procedureAt 0x0004000C 12 (.pages l) ws rs) :=
  sound_procedure test_decode_programControlCode_4 (by simp only [legalLabel]; decide) (job_code _ _ _) nofun
    (fun _ _ h => ⟨(12, 1), by rw [pageRange, h]; rfl, by decide, rfl⟩)

/-- What a write of a page procedure needs, in a sound state whose next write is answered. -/
theorem job_write {s : State} {l : Label} {ok : Bool} (hi : Sound s) (hl : s.pc = .resume l)
    (hp : inPageProcedure l = true) (hw : s.writeAnswers = [some ok]) (bytes : PageJob → List Byte)
    (hb : ∀ j, (bytes j).length ≤ s.params.maxWrite) (sp : PageJob → Space) :
    ∃ j, pageJob s = some j ∧ ∃ t, busWrite (Machine.translate (sp j) s.cc) (bytes j) s = some (ok, t) :=
  (hi.page_named l hl hp).imp (fun j h => ⟨h.1, answered_write hw (hb j) _⟩)

/-- What a read of a page procedure needs, in a sound state whose next read is answered. -/
theorem job_read {s : State} {l : Label} {r : ReadReply} (hi : Sound s) (hl : s.pc = .resume l)
    (hp : inPageProcedure l = true) (hr : s.readAnswers = [some r]) (hb : boundReply r = r) :
    ∃ j, pageJob s = some j ∧ ∃ t, busRead (Machine.translate j.space s.cc) 16 s = some (r, t) :=
  (hi.page_named l hl hp).imp (fun j h => ⟨h.1, _, by rw [busRead_script hr, hb]⟩)

/-- A table whose one entry lists these pages as read-only. -/
def readOnlyAt (ps : List Page) (s : State) : State :=
  { s with params := { fixtureParams with descriptors := [{ fixtureFirst with readOnlyNvmPages := ps }] } }

theorem witness_RawCommandsCheckOperands :
    (busyAt 0x1 .start).pc = .resume .start ∧ (0#9).toNat = 0 ∧ 256 < (255#8).toNat + (2#9).toNat ∧
    0 < (256#9).toNat ∧ (0#8).toNat + (256#9).toNat ≤ 256 ∧ 0 < (1#9).toNat ∧ (255#8).toNat + (1#9).toNat ≤ 256 ∧
    (Space.nvm ≠ .register ∧ ((0x28#8).toNat % 16 ≠ 0 ∨ (16#9).toNat ≠ 16)) ∧
    (Space.nvm ≠ .register ∧ ((0x20#8).toNat % 16 ≠ 0 ∨ (8#9).toNat ≠ 16)) ∧
    (0xF0#8).toNat + (16#9).toNat ≤ 256 ∧ (Space.nvm ≠ .register → (0xF0#8).toNat % 16 = 0 ∧ (16#9).toNat = 16) ∧
    15 < (16#8).toNat ∧ Space.eeprom ≠ .register ∧ (15#8).toNat ≤ 15 := by decide

theorem witness_ReadCommandsWriteTheAddress :
    ((∀ ok, ∃ t, busWrite (Machine.translate .nvm 1) [0x20] (answerWrite ok (busyAt 0x00102011 .rb1)) = some (ok, t)) ∧
      (answerWrite true (busyAt 0x00102011 .rb1)).cc = 1 ∧ (busyAt 0x00102011 .rb1).pc = .resume .rb1 ∧
      (∃ n, Instr.readBytes .nvm 0x20 16 = .readBytes .nvm 0x20 n) ∧
      (∃ p : Byte, p.toNat ≤ 15 ∧ (0xF0#8).toNat = 16 * p.toNat ∧
        (Instr.readPage .nvm 15 = .readPage .nvm p ∨ Instr.readPage .nvm 15 = .isPageErased .nvm p))) ∧
    (∀ ok, ∀ s ∈ [procedureAt 0x216 2 (.erase .e1Rb1) [some ok] [], procedureAt 0x217 2 (.page (.p2 .e5Rb1)) [some ok] [],
        procedureAt 0x00200218 2 (.pages .p1Rb1) [some ok] [], procedureAt 0x0004000C 12 (.pages .p5Rb1) [some ok] []],
      Sound s ∧ ∃ l l', s.pc = .resume l ∧ readAfter l = some l' ∧ ∃ j, pageJob s = some j ∧
        ∃ t, busWrite (Machine.translate j.space s.cc) [pageAddress j.page] s = some (ok, t)) := by
  refine ⟨⟨fun ok => by cases ok <;> exact ⟨_, rfl⟩, rfl, rfl, ⟨16, rfl⟩, ⟨15, by decide, by decide, .inl rfl⟩⟩, ?_⟩
  intro ok s hs
  have w {s : State} {l l' : Label} (hi : Sound s) (hl : s.pc = .resume l) (hr : readAfter l = some l')
      (hp : inPageProcedure l = true) (hw : s.writeAnswers = [some ok]) (hm : 1 ≤ s.params.maxWrite) :
      Sound s ∧ ∃ l l', s.pc = .resume l ∧ readAfter l = some l' ∧ ∃ j, pageJob s = some j ∧
        ∃ t, busWrite (Machine.translate j.space s.cc) [pageAddress j.page] s = some (ok, t) :=
    ⟨hi, l, l', hl, hr, job_write hi hl hp hw (fun j => [pageAddress j.page]) (fun _ => hm) PageJob.space⟩
  simp only [List.mem_cons, List.not_mem_nil, or_false] at hs
  rcases hs with rfl | rfl | rfl | rfl
  · exact w (sound_erase _ _ _) rfl rfl rfl rfl (by decide : 1 ≤ 257)
  · exact w (sound_page _ _ _) rfl rfl rfl rfl (by decide : 1 ≤ 257)
  · exact w (sound_pages _ _ _) rfl rfl rfl rfl (by decide : 1 ≤ 257)
  · exact w (sound_code _ _ _) rfl rfl rfl rfl (by decide : 1 ≤ 257)

theorem witness_ReadCommandsReportBadReads :
    ((busyAt 0x00102011 .rb2).pc = .resume .rb2 ∧
      (∃ t, busRead (Machine.translate .nvm 1) 256 (answerRead .fail (busyAt 0x01000011 .rb2)) = some (.fail, t)) ∧
      (∃ t, busRead (Machine.translate .nvm 1) 16 (answerRead (.bytes [1]) (busyAt 0x00000013 .rb2)) =
        some (.bytes [1], t)) ∧ [(1 : Byte)].length ≠ 16 ∧
      (∃ a c, Instr.readBytes .nvm 0 256 = .readBytes .nvm a c ∧ 256 = c.toNat) ∧
      (∃ p, 16 = 16 ∧ (Instr.readPage .nvm 0 = .readPage .nvm p ∨ Instr.readPage .nvm 0 = .isPageErased .nvm p))) ∧
    (∀ r ∈ [ReadReply.fail, .bytes (pageOf 0 ++ [0])], (∀ xs, r = .bytes xs → xs.length ≠ 16) ∧
      ∀ s ∈ [procedureAt 0x216 2 (.erase .e1Rb2) [] [some r], procedureAt 0x217 2 (.page (.p2 .e5Rb2)) [] [some r],
        procedureAt 0x00200218 2 (.pages .p1Rb2) [] [some r], procedureAt 0x0004000C 12 (.pages .p5Rb2) [] [some r]],
      Sound s ∧ ∃ l l', readAfter l = some l' ∧ s.pc = .resume l' ∧ ∃ j, pageJob s = some j ∧
        ∃ t, busRead (Machine.translate j.space s.cc) 16 s = some (r, t)) := by
  refine ⟨⟨rfl, ⟨_, rfl⟩, ⟨_, rfl⟩, by decide, ⟨0, 256, rfl, rfl⟩, ⟨0, rfl, .inl rfl⟩⟩, fun r hr => ⟨?_, fun s hs => ?_⟩⟩
  · simp only [List.mem_cons, List.not_mem_nil, or_false] at hr
    rintro xs rfl
    rcases hr with h | h
    · cases h
    · cases h; decide
  · have hb : boundReply r = r := by
      simp only [List.mem_cons, List.not_mem_nil, or_false] at hr
      rcases hr with rfl | rfl <;> decide
    have w {s : State} {l l' : Label} (hi : Sound s) (hr : readAfter l = some l') (hl : s.pc = .resume l')
        (hp : inPageProcedure l' = true) (hw : s.readAnswers = [some r]) :
        Sound s ∧ ∃ l l', readAfter l = some l' ∧ s.pc = .resume l' ∧ ∃ j, pageJob s = some j ∧
          ∃ t, busRead (Machine.translate j.space s.cc) 16 s = some (r, t) :=
      ⟨hi, l, l', hr, hl, job_read hi hl hp hw hb⟩
    simp only [List.mem_cons, List.not_mem_nil, or_false] at hs
    rcases hs with rfl | rfl | rfl | rfl
    · exact w (l := .erase .e1Rb1) (sound_erase _ _ _) rfl rfl rfl rfl
    · exact w (l := .page (.p2 .e5Rb1)) (sound_page _ _ _) rfl rfl rfl rfl
    · exact w (l := .pages .p1Rb1) (sound_pages _ _ _) rfl rfl rfl rfl
    · exact w (l := .pages .p5Rb1) (sound_code _ _ _) rfl rfl rfl rfl

theorem witness_ReadBytesCompletes :
    (busyAt 0x01000001 .rb2).pc = .resume .rb2 ∧ (busyAt 0x01000001 .rb2).data.wf ∧
    (∃ t, busRead (Machine.translate .register 1) (256#9).toNat
      (answerRead (.bytes (List.replicate 256 7)) (busyAt 0x01000001 .rb2)) = some (.bytes (List.replicate 256 7), t)) ∧
    (List.replicate 256 (7 : Byte)).length = (256#9).toNat :=
  ⟨rfl, emptyData_wf, answered_read rfl (List.length_replicate.trans_le (Nat.le_refl 256)) _ _, List.length_replicate⟩

theorem witness_PageReadsComplete :
    (busyAt 0x13 .rb2).pc = .resume .rb2 ∧ (busyAt 0x13 .rb2).data.wf ∧
    (∀ b, ∃ t, busRead (Machine.translate .nvm 1) 16 (answerRead (.bytes (pageOf b)) (busyAt 0x13 .rb2)) =
      some (.bytes (pageOf b), t)) ∧ (pageOf 0).length = 16 ∧ (∀ x ∈ pageOf 0, x = 0) ∧ (∃ x ∈ pageOf 1, x ≠ 0) :=
  ⟨rfl, by decide, fun _ => ⟨_, rfl⟩, by decide, by decide, by decide⟩

theorem witness_WriteBytesCompletes :
    ((busyAt 0x01000002 .wb1).pc = .resume .wb1 ∧
      (∀ ok, ∃ t, busWrite (Machine.translate .register 1) (0 :: (List.range (256#9).toNat).map (Memory.read []))
        (answerWrite ok (busyAt 0x01000002 .wb1)) = some (ok, t))) ∧
    (∀ ok, ∃ s, Sound s ∧ EraseNaming (fun l => .pages (.p2 l)) ∧ s.pc = .resume (.pages (.p2 .e2Wb1)) ∧
      s.desc? = some fixtureFirst ∧ ∃ j, pageJob s = some j ∧ ∃ t, busWrite (Machine.translate .register s.cc)
        [fixtureFirst.eraseTriggerAddress, triggerByte fixtureFirst j.space j.page] s = some (ok, t)) ∧
    (∀ ok, ∃ s, Sound s ∧ PageNaming .pages ∧ s.pc = .resume (.pages .p3Wb1) ∧ ∃ j, pageJob s = some j ∧
      ∃ t, busWrite (Machine.translate j.space s.cc) (pageAddress j.page :: j.target) s = some (ok, t)) := by
  refine ⟨⟨rfl, fun ok => answered_write (ok := ok) rfl
      (by simp [busyAt, s0, fixtureParams, Config.defaultParams, answerWrite]) _⟩, fun ok => ?_, fun ok => ?_⟩
  · have h := sound_pages (.p2 .e2Wb1) [some ok] []
    exact ⟨_, h, .inr (.inr rfl), rfl, rfl, job_write h rfl rfl rfl (fun j => [_, triggerByte fixtureFirst j.space j.page])
      (fun _ => (by decide : 2 ≤ 257)) (fun _ => .register)⟩
  · have h := sound_pages .p3Wb1 [some ok] []
    exact ⟨_, h, .inr rfl, rfl, _, job_pages _ _ _,
      answered_write (bytes := 0x20 :: pageOf 0) (h := (rfl : (procedureAt 0x00200218 2 _ _ _).writeAnswers = _)) (by decide : 17 ≤ 257) _⟩

/-! ### Witnesses: the page sequencer -/

theorem witness_TriggerByteFields : fixtureFirst.wf := by decide +kernel

theorem witness_IsPageWritableCompletes :
    (busyAt 0x14 .start).pc = .resume .start ∧ (busyAt 0x14 .start).desc? = some fixtureFirst ∧ (15#8).toNat ≤ 15 ∧
    (15#8).setWidth 4 ∈ fixtureFirst.readOnlyNvmPages ∧
    ¬(Space.nvm = .nvm ∧ (14#8).setWidth 4 ∈ fixtureFirst.readOnlyNvmPages) ∧
    ¬(Space.eeprom = .nvm ∧ (15#8).setWidth 4 ∈ fixtureFirst.readOnlyNvmPages) ∧ 15 < (16#8).toNat :=
  ⟨rfl, rfl, by decide, by decide, by decide, by decide, by decide⟩

theorem witness_PageCommandsBegin :
    (busyAt 0x16 .start).pc = .resume .start ∧ (busyAt 0x16 .start).desc? = some fixtureFirst ∧
    (Space.register = .register ∨ 15 < (0#8).toNat) ∧ (Space.nvm = .register ∨ 15 < (16#8).toNat) ∧
    Space.nvm ≠ .register ∧ (15#8).toNat ≤ 15 ∧ (15#8).setWidth 4 ∈ fixtureFirst.readOnlyNvmPages ∧
    ¬(Space.eeprom = .nvm ∧ (15#8).setWidth 4 ∈ fixtureFirst.readOnlyNvmPages) :=
  ⟨rfl, rfl, by decide, by decide, by decide, by decide, by decide, by decide⟩

/-- V-EP-2, from the start. -/
theorem witness_ErasePageWholeRun :
    let s : State :=
      { busyAt 0x00000216 .start with
        writeAnswers := [some true, some true, some false, some true]
        readAnswers := [some (.bytes (pageOf 0x11)), some (.bytes (List.replicate 16 0))] }
    s.pc = .resume .start ∧ s.desc? = some fixtureFirst ∧ Space.nvm ≠ .register ∧ (2#8).toNat ≤ 15 ∧
      ¬(Space.nvm = .nvm ∧ (2#8).setWidth 4 ∈ fixtureFirst.readOnlyNvmPages) ∧ s.params.errataWorkaround = true ∧
      s.params.errataDummyPayload = .zeroLength ∧ 2 ≤ s.params.maxWrite ∧ (pageOf 0x11).length = 16 ∧
      (∃ x ∈ pageOf 0x11, x ≠ 0) ∧ s.writeAnswers = some true :: some true :: some false :: some true :: [] ∧
      s.readAnswers = some (.bytes (pageOf 0x11)) :: some (.bytes (List.replicate 16 0)) :: [] :=
  ⟨rfl, rfl, by decide, by decide, by decide, rfl, rfl, by decide, by decide, by decide, rfl, rfl⟩

theorem witness_ErasePageEnds :
    (answerRead (.bytes (pageOf 0)) (busyAt 0x216 (.erase .e1Rb2))).desc? = some fixtureFirst ∧
    (∀ l, (busyAt 0x216 (.erase l)).pc = .resume (.erase l)) ∧
    (∀ b l, ∃ t, busRead (Machine.translate .nvm 1) 16 (answerRead (.bytes (pageOf b)) (busyAt 0x216 (.erase l))) =
      some (.bytes (pageOf b), t)) ∧
    (pageOf 0).length = 16 ∧ (∀ x ∈ pageOf 0, x = 0) ∧ (pageOf 0x11).length = 16 ∧ (∃ x ∈ pageOf 0x11, x ≠ 0) :=
  ⟨rfl, fun _ => rfl, fun _ _ => answered_read rfl (by simp [pageOf]) _ _, by decide, by decide, by decide, by decide⟩

theorem witness_DummyAnswerIsIgnored :
    (∀ ok w l, (answerWrite ok (busyAt w l)).desc? = some fixtureFirst ∧
      ∃ t, busWrite (Machine.translate .register 1) (dummyBytes (busyAt w l).params.errataDummyPayload)
        (answerWrite ok (busyAt w l)) = some (ok, t)) ∧
    (busyAt 0x216 (.erase .e4D1)).pc = .resume (.erase .e4D1) ∧
    (busyAt 0x217 (.page (.p2 .e4D1))).pc = .resume (.page (.p2 .e4D1)) ∧
    (busyAt 0x00200218 (.pages (.p2 .e4D1))).pc = .resume (.pages (.p2 .e4D1)) ∧
    (∃ s, Sound s ∧ EraseNaming .erase ∧ s.pc = .resume (.erase .e3)) ∧
    (∃ s, Sound s ∧ EraseNaming (fun l => .pages (.p2 l)) ∧ s.pc = .resume (.pages (.p2 .e3))) ∧
    (∃ s, Sound s ∧ PageNaming .page ∧ s.pc = .resume (.page .p4)) ∧
    (∃ s, Sound s ∧ PageNaming .pages ∧ s.pc = .resume (.pages .p4)) :=
  ⟨fun ok _ _ => ⟨rfl, by cases ok <;> exact ⟨_, rfl⟩⟩, rfl, rfl, rfl, ⟨_, sound_erase .e3 [] [], .inl rfl, rfl⟩,
    ⟨_, sound_code (.p2 .e3) [] [], .inr (.inr rfl), rfl⟩, ⟨_, sound_page .p4 [] [], .inl rfl, rfl⟩,
    ⟨_, sound_pages .p4 [] [], .inr rfl, rfl⟩⟩

/-- DATA of S0 is all zero, so the target is the zero page. The read-only page of the last clause is the NVM page 2 of a
table that lists it. -/
theorem witness_ProgramPageEnds :
    ((∀ l, (busyAt 0x217 (.page l)).pc = .resume (.page l) ∧ (busyAt 0x217 (.page l)).desc? = some fixtureFirst) ∧
      (∀ b l, ∃ t, busRead (Machine.translate .nvm 1) 16 (answerRead (.bytes (pageOf b)) (busyAt 0x217 (.page l))) =
        some (.bytes (pageOf b), t)) ∧
      pageOf 0 = (List.range 16).map (Memory.read []) ∧ pageOf 0x11 ≠ (List.range 16).map (Memory.read []) ∧
      (pageOf 0).length = 16 ∧ (pageOf 0x11).length = 16) ∧
    (∀ b, ∀ l, ∃ s, Sound s ∧ PageNaming .page ∧ s.desc? = some fixtureFirst ∧ s.pc = .resume (.page l) ∧
      pageJob s = some ⟨.nvm, 2, pageOf 0⟩ ∧
      ∃ t, busRead (Machine.translate .nvm s.cc) 16 s = some (.bytes (pageOf b), t)) ∧
    (∀ b, ∀ l, ∃ s, Sound s ∧ PageNaming .pages ∧ s.desc? = some fixtureFirst ∧ s.pc = .resume (.pages l) ∧
      pageJob s = some ⟨.nvm, 12, pageOf 0⟩ ∧
      ∃ t, busRead (Machine.translate .nvm s.cc) 16 s = some (.bytes (pageOf b), t)) ∧
    (pageOf 0x11 ≠ pageOf 0 ∧ pageWritable fixtureFirst .nvm 2 = true ∧ (∀ x ∈ pageOf 0, x = 0) ∧
      (∃ x ∈ pageOf 0x11, x ≠ 0)) ∧
    (∃ s t, Sound s ∧ s.desc? = some { fixtureFirst with readOnlyNvmPages := [2] } ∧ s.pc = .resume (.page .p1Rb2) ∧
      pageJob s = some ⟨.nvm, 2, pageOf 0⟩ ∧
      pageWritable { fixtureFirst with readOnlyNvmPages := [2] } .nvm 2 = false ∧
      busRead (Machine.translate .nvm s.cc) 16 s = some (.bytes (pageOf 0x11), t)) := by
  refine ⟨⟨fun _ => ⟨rfl, rfl⟩, fun _ _ => answered_read rfl (by simp [pageOf]) _ _, by decide, by decide, by decide,
      by decide⟩, fun b l => ?_, fun b l => ?_, by decide, ?_⟩
  · exact ⟨_, sound_page l [] [some (.bytes (pageOf b))], .inl rfl, rfl, rfl, job_page _ _ _,
      answered_read rfl (by simp [pageOf]) _ _⟩
  · exact ⟨_, sound_code l [] [some (.bytes (pageOf b))], .inr rfl, rfl, rfl, job_code _ _ _,
      answered_read rfl (by simp [pageOf]) _ _⟩
  · refine ⟨readOnlyAt [2] (procedureAt 0x00000217 2 (.page .p1Rb2) [] [some (.bytes (pageOf 0x11))]), _,
      sound_at (l := .page .p1Rb2) rfl (by decide +kernel) (by decide) emptyData_wf ⟨rfl, rfl, rfl, rfl⟩
        ⟨by decide, rfl⟩ (fun _ => ⟨⟨.nvm, 2, pageOf 0⟩, by decide, by decide, by decide⟩) nofun nofun,
      rfl, rfl, by decide, by decide, rfl⟩

/-- V-PG-4, from the start. -/
theorem witness_ProgramPageWholeRun :
    let target := (List.range 16).map (Memory.read [])
    let s : State :=
      { busyAt 0x00000217 .start with
        writeAnswers := [some true, some true, some true, some false, some true, some true, some true]
        readAnswers := [some (.bytes (pageOf 0x11)), some (.bytes (pageOf 0x11)),
          some (.bytes (List.replicate 16 0)), some (.bytes target)] }
    s.pc = .resume .start ∧ s.desc? = some fixtureFirst ∧ Space.nvm ≠ .register ∧ (2#8).toNat ≤ 15 ∧
      ¬(Space.nvm = .nvm ∧ (2#8).setWidth 4 ∈ fixtureFirst.readOnlyNvmPages) ∧ s.params.errataWorkaround = true ∧
      s.params.errataDummyPayload = .zeroLength ∧ 17 ≤ s.params.maxWrite ∧ (pageOf 0x11).length = 16 ∧
      pageOf 0x11 ≠ (List.range 16).map s.data.read ∧ (∃ y ∈ pageOf 0x11, y ≠ 0) ∧
      s.readAnswers = some (.bytes (pageOf 0x11)) :: some (.bytes (pageOf 0x11)) ::
        some (.bytes (List.replicate 16 0)) :: some (.bytes ((List.range 16).map s.data.read)) :: [] :=
  ⟨rfl, rfl, by decide, by decide, by decide, rfl, rfl, by decide, by decide, by decide, by decide, rfl⟩

theorem witness_ProgramPagesBegins :
    (busyAt 0x18 .start).pc = .resume .start ∧ (busyAt 0x18 .start).desc? = some fixtureFirst ∧
    256 < 16 * (15#8).toNat + (32#9).toNat ∧ (24#9).toNat % 16 ≠ 0 ∧
    (0 < (16#9).toNat ∧ (16#9).toNat % 16 = 0 ∧ 16 * (15#8).toNat + (16#9).toNat ≤ 256) ∧
    (failPolicy.params.roPolicy = .fail ∧ failPolicy.desc? = some fixtureFirst ∧ failPolicy.pc = .resume .start ∧
      pageWritable fixtureFirst .nvm 15 = false ∧ (15#8).toNat ≤ (15 : Page).toNat ∧
      (15 : Page).toNat < (15#8).toNat + (16#9).toNat / 16 ∧
      ∀ j : Page, (15#8).toNat ≤ j.toNat → j.toNat < (15 : Page).toNat → pageWritable fixtureFirst .nvm j = true) ∧
    ((busyAt 0x18 .start).params.roPolicy = .skip ∧
      ∀ k : Page, (15#8).toNat ≤ k.toNat → k.toNat < (15#8).toNat + (16#9).toNat / 16 →
        pageWritable fixtureFirst .nvm k = false) ∧
    (pageWritable fixtureFirst .nvm ((14#8).setWidth 4) = true ∧
      ∀ k : Page, (14#8).toNat ≤ k.toNat → k.toNat < (14#8).toNat + (16#9).toNat / 16 →
        pageWritable fixtureFirst .nvm k = true) ∧
    ((readOnlyAt [0, 1] (busyAt 0x00300018 .start)).params.roPolicy = .skip ∧
      (readOnlyAt [0, 1] (busyAt 0x00300018 .start)).desc? = some { fixtureFirst with readOnlyNvmPages := [0, 1] } ∧
      (0#8).toNat ≤ (2 : Page).toNat ∧ (2 : Page).toNat < (0#8).toNat + (48#9).toNat / 16 ∧
      pageWritable { fixtureFirst with readOnlyNvmPages := [0, 1] } .nvm 2 = true ∧
      ∀ j : Page, (0#8).toNat ≤ j.toNat → j.toNat < (2 : Page).toNat →
        pageWritable { fixtureFirst with readOnlyNvmPages := [0, 1] } .nvm j = false) :=
  ⟨rfl, rfl, by decide, by decide, by decide, ⟨rfl, rfl, rfl, by decide, by decide, by decide, by decide⟩,
    ⟨rfl, by decide⟩, ⟨by decide, by decide⟩, ⟨rfl, rfl, by decide, by decide, by decide, by decide⟩⟩

/-- PROGRAM_PAGES NVM, 2, 32 at a label of its first page, with a read answered by the zero page, its target. -/
def inPages (l : PageLabel) : State :=
  answerRead (.bytes (pageOf 0)) (onPage .nvm 2 (busyAt 0x00200218 (.pages l)))

/-- The last page of a range of sixteen; and, in a table whose pages 3 and 4 are read-only, page 2 of the range 2..4
(vectors V-PP-1 and V-PP-10). -/
theorem witness_ProgramPagesCompletes :
    (∃ s t : State, s.desc? = some fixtureFirst ∧ s.pc = .resume (.pages .p5Rb2) ∧
      (0#8).toNat + (256#9).toNat / 16 ≤ 16 ∧ s.locals.i.toNat < (256#9).toNat / 16 ∧
      s.locals.p.toNat = (0#8).toNat + s.locals.i.toNat ∧
      (∀ k : Page, s.locals.p.toNat < k.toNat → k.toNat < (0#8).toNat + (256#9).toNat / 16 →
        pageWritable fixtureFirst .eeprom k = false) ∧ s.locals.i.toNat + 1 = (256#9).toNat / 16 ∧
      busRead (Machine.translate .eeprom s.cc) 16 s = some (.bytes (pageOf 0), t) ∧ (pageOf 0).length = 16 ∧
      pageOf 0 = (List.range 16).map (fun k => s.data.read (16 * s.locals.i.toNat + k))) ∧
    (∀ l, l = PageLabel.p5Rb2 ∨ l = .p1Rb2 →
      let s := readOnlyAt [3, 4] (inPages l)
      let d := { fixtureFirst with readOnlyNvmPages := [3, 4] }
      s.desc? = some d ∧ (s.pc = .resume (.pages .p5Rb2) ∨ s.pc = .resume (.pages .p1Rb2)) ∧
      (2#8).toNat + (48#9).toNat / 16 ≤ 16 ∧ s.locals.i.toNat < (48#9).toNat / 16 ∧
      s.locals.p.toNat = (2#8).toNat + s.locals.i.toNat ∧
      (∀ k : Page, s.locals.p.toNat < k.toNat → k.toNat < (2#8).toNat + (48#9).toNat / 16 →
        pageWritable d .nvm k = false) ∧
      (∃ t, busRead (Machine.translate .nvm s.cc) 16 s = some (.bytes (pageOf 0), t)) ∧ (pageOf 0).length = 16 ∧
      pageOf 0 = (List.range 16).map (fun k => s.data.read (16 * s.locals.i.toNat + k))) :=
  ⟨⟨{ inPages .p5Rb2 with locals := { Locals.zero with i := 15, p := 15 } }, _, rfl, rfl, by decide, by decide,
      by decide, by decide, by decide, rfl, by decide, by decide⟩,
    by
      rintro l (rfl | rfl) <;>
      exact ⟨rfl, by decide, by decide, by decide, by decide, by decide, ⟨_, rfl⟩, by decide, by decide⟩⟩

/-- Page 2 of the range 2..5: the next writable page is page 3, or, in a table whose pages 3 and 4 are read-only, page 5,
the last of the range. -/
theorem witness_ProgramPagesGoesOn :
    ∀ l, l = PageLabel.p5Rb2 ∨ l = .p1Rb2 → ∀ q, q = (([], 3) : List Page × Page) ∨ q = ([3, 4], 5) →
      let s := readOnlyAt q.1 (inPages l)
      let d := { fixtureFirst with readOnlyNvmPages := q.1 }
      s.desc? = some d ∧ (s.pc = .resume (.pages .p5Rb2) ∨ s.pc = .resume (.pages .p1Rb2)) ∧
      (2#8).toNat + (64#9).toNat / 16 ≤ 16 ∧ s.locals.p.toNat = (2#8).toNat + s.locals.i.toNat ∧
      s.locals.p.toNat < q.2.toNat ∧ q.2.toNat < (2#8).toNat + (64#9).toNat / 16 ∧ pageWritable d .nvm q.2 = true ∧
      (∀ j : Page, s.locals.p.toNat < j.toNat → j.toNat < q.2.toNat → pageWritable d .nvm j = false) ∧
      (∃ t, busRead (Machine.translate .nvm s.cc) 16 s = some (.bytes (pageOf 0), t)) ∧ (pageOf 0).length = 16 ∧
      pageOf 0 = (List.range 16).map (fun b => s.data.read (16 * s.locals.i.toNat + b)) := by
  rintro l (rfl | rfl) q (rfl | rfl) <;>
  exact ⟨rfl, by decide, by decide, by decide, by decide, by decide, by decide, by decide, ⟨_, rfl⟩, by decide, by decide⟩

theorem witness_PageStateMovesAsR83 :
    Sound (busyAt 0x00000F16 .start) ∧ (busyAt 0x00000F16 .start).pc ≠ .idle ∧
    ∃ t, exec (busyAt 0x00000F16 .start).command (busyAt 0x00000F16 .start) = .next t ∧ t.status.pstate = .failed :=
  ⟨sound_start _, nofun, _, rfl, by decide⟩

/-- ERASE_PAGE NVM, 2 before its trigger (V-EP-2, event 3). -/
def atTrigger : State :=
  { answerWrite true (onPage .nvm 2 (busyAt 0x00000216 (.erase .e2Wb1))) with
    trace := [.write 0x0A [0x20] true, .read 0x0A 16 (.bytes (pageOf 0x11))] }

theorem sound_atTrigger : Sound atTrigger :=
  sound_at (l := .erase .e2Wb1) rfl fixtureParams_wf fixture_devsel emptyData_wf ⟨rfl, rfl, rfl, rfl⟩
    ⟨by decide, rfl⟩ (fun _ => ⟨⟨.nvm, 2, []⟩, by decide, by decide, by decide⟩) nofun nofun

theorem history_atTrigger : History atTrigger :=
  history_at (d := fixtureFirst) (j := ⟨.nvm, 2, []⟩) rfl (by decide)
    ⟨by decide, pageOf 0x11, by decide, by decide, List.suffix_rfl⟩

theorem witness_StepKeepsPageHistory :
    Sound atTrigger ∧ History atTrigger ∧ ∃ t, step atTrigger = .next t ∧ t.pc = .resume (.erase .e3) :=
  ⟨sound_atTrigger, history_atTrigger, _, rfl, by decide⟩

/-- The events of a page read of NVM page 2 that returned zeros. -/
def zeroRead : List Event := [.write 0x0A [0x20] true, .read 0x0A 16 (.bytes (pageOf 0))]

/-- PROGRAM_PAGE NVM, 2 before its page write. -/
def atPageWrite : State :=
  { answerWrite true (onPage .nvm 2 (busyAt 0x00000217 (.page .p3Wb1))) with trace := zeroRead }

/-- PROGRAM_PAGES NVM, 2, 32 before the write of its first page. -/
def atPagesWrite : State :=
  { answerWrite true (onPage .nvm 2 (busyAt 0x00200218 (.pages .p3Wb1))) with trace := zeroRead }

theorem sound_atPageWrite : Sound atPageWrite :=
  sound_at (l := .page .p3Wb1) rfl fixtureParams_wf fixture_devsel emptyData_wf ⟨rfl, rfl, rfl, rfl⟩
    ⟨by decide, rfl⟩ (fun _ => ⟨⟨.nvm, 2, pageOf 0⟩, by decide, by decide, by decide⟩) nofun nofun

theorem sound_atPagesWrite : Sound atPagesWrite :=
  sound_at (l := .pages .p3Wb1) rfl fixtureParams_wf fixture_devsel emptyData_wf ⟨rfl, rfl, rfl, rfl⟩
    ⟨by decide, rfl⟩ (fun _ => ⟨⟨.nvm, 2, pageOf 0⟩, by decide, by decide, by decide⟩)
    (fun _ _ => ⟨⟨(2, 2), by decide, by decide, by decide⟩, by decide⟩) nofun

theorem history_atPageWrite : History atPageWrite :=
  history_at (d := fixtureFirst) (j := ⟨.nvm, 2, pageOf 0⟩) rfl (by decide)
    ⟨by decide, pageOf 0, by decide, by decide, List.suffix_rfl⟩

theorem history_atPagesWrite : History atPagesWrite :=
  history_at (d := fixtureFirst) (j := ⟨.nvm, 2, pageOf 0⟩) rfl (by decide)
    ⟨by decide, pageOf 0, by decide, by decide, List.suffix_rfl⟩

theorem witness_OnlyErasedPagesAreProgrammed :
    (∃ s t j, Sound s ∧ History s ∧ s.desc? = some fixtureFirst ∧ pageJob s = some j ∧
      s.pc = .resume (.page .p3Wb1) ∧ exec s.command s = .next t ∧ t ≠ s) ∧
    (∃ s t j, Sound s ∧ History s ∧ s.desc? = some fixtureFirst ∧ pageJob s = some j ∧
      s.pc = .resume (.pages .p3Wb1) ∧ exec s.command s = .next t ∧ t ≠ s) :=
  ⟨⟨_, _, _, sound_atPageWrite, history_atPageWrite, rfl, rfl, rfl, rfl,
      fun h => absurd (congrArg State.trace h) (by decide)⟩,
   ⟨_, _, _, sound_atPagesWrite, history_atPagesWrite, rfl, rfl, rfl, rfl,
      fun h => absurd (congrArg State.trace h) (by decide)⟩⟩

theorem witness_StepKeepsSkippedExact :
    Sound atPagesWrite ∧ History atPagesWrite ∧ SkippedExact atPagesWrite ∧ ∃ t, step atPagesWrite = .next t := by
  refine ⟨sound_atPagesWrite, history_atPagesWrite, ?_, _, rfl⟩
  intro d j r l hd hj hr _
  cases hd.symm.trans (rfl : atPagesWrite.desc? = some fixtureFirst)
  have hj' : pageJob atPagesWrite = some ⟨.nvm, 2, pageOf 0⟩ := by decide
  have hr' : pageRange atPagesWrite = some (2, 2) := by decide
  cases hj.symm.trans hj'
  cases hr.symm.trans hr'
  decide

/-! ### Witnesses: the device controller -/

theorem witness_ResetDeviceCompletes :
    (∀ l, (busyAt 0x9 l).pc = .resume l) ∧
    (∀ ok l, ∃ t, busWrite (Machine.translate .register 1) [0xC8, 0x02] (answerWrite ok (busyAt 0x9 l)) = some (ok, t)) ∧
    (∃ t, busWrite (Machine.translate .register 1) [0xC8, 0x02]
      { answerWrite true (busyAt 0x9 .start) with pc := .resume .x1Wb1 } = some (true, t)) :=
  ⟨fun _ => rfl, fun ok _ => by cases ok <;> exact ⟨_, rfl⟩, _, rfl⟩

theorem witness_ScanDeviceCompletes :
    (∀ l, (busyAt 0xF0A l).pc = .resume l) ∧ 15 < (16#8).toNat ∧ (15#8).toNat ≤ 15 ∧
    (∀ ok, ∃ t, busWrite (BitVec.ofNat 7 (8 * (15#8).toNat)) [] (answerWrite ok (busyAt 0xF0A .s1)) = some (ok, t)) :=
  ⟨fun _ => rfl, by decide, by decide, fun ok => by cases ok <;> exact ⟨_, rfl⟩⟩

/-- L1-8, from the start. -/
theorem witness_ScanDevicesWholeRun :
    let answers := (List.range 16).map (fun c => c == 1 || c == 3)
    let s : State := { busyAt 0xB .start with writeAnswers := answers.map some ++ [some true] }
    s.pc = .resume .start ∧ s.data.wf ∧ answers.length = 16 ∧ s.writeAnswers = answers.map some ++ [some true] :=
  ⟨rfl, by decide, by decide, rfl⟩

/-- SCAN_DEVICES at the probe of a code, which will be answered. -/
def probing (ok : Bool) (c : ControlCode) : State :=
  { answerWrite ok (busyAt 0xB .scan) with locals := { Locals.zero with c := c } }

/-- The start, the probes of codes 0, 14 and 15, either answer. -/
theorem witness_ScanDevicesCompletes :
    (busyAt 0xB .start).pc = .resume .start ∧
    (∀ ok, ∀ c ∈ [(0 : ControlCode), 14, 15], ∃ s t : State, s.pc = .resume .scan ∧ s.locals.c = c ∧ s.data.wf ∧
      busWrite (BitVec.ofNat 7 (8 * s.locals.c.toNat)) [] s = some (ok, t)) ∧
    (14 : ControlCode).toNat < 15 :=
  ⟨rfl, fun ok c _ =>
    have h : (probing ok c).writeAnswers = [some ok] := rfl
    (answered_write (bytes := []) h (Nat.zero_le _) (BitVec.ofNat 7 (8 * c.toNat))).elim
      (fun t ht => ⟨probing ok c, t, rfl, rfl, emptyData_wf, ht⟩), by decide⟩

theorem witness_SpecificationPacking : parseSpec [0x31, 0x30, 0x58, 0x30] = some 0x28 := by decide

/-- A table whose control-code page is read-only. -/
def readOnlyCodePage : DeviceDescriptor := { fixtureFirst with readOnlyNvmPages := [12] }

theorem witness_ProgramControlCodeBegins :
    (∀ w, (busyAt w .start).pc = .resume .start ∧ (busyAt w .start).desc? = some fixtureFirst) ∧ fixtureFirst.wf ∧
    parseSpec ((List.range (4#9).toNat).map (Memory.read [])) = none ∧
    (parseSpec ((List.range (4#9).toNat).map (holding [0x30, 0x31, 0x58, 0x58] (busyAt 0x0004000C .start)).data.read) =
      some 0x34 ∧ (12 : Page).toNat = fixtureFirst.controlCodeAddress.toNat / 16 ∧
      pageWritable fixtureFirst .nvm 12 = true) ∧
    (readOnlyCodePage.wf ∧ (12 : Page).toNat = readOnlyCodePage.controlCodeAddress.toNat / 16 ∧
      pageWritable readOnlyCodePage .nvm 12 = false) ∧
    (∀ ro, ({ s0 with params := { fixtureParams with descriptors := [readOnlyCodePage], roPolicy := ro } } : State).desc?
      = some readOnlyCodePage) :=
  ⟨fun _ => ⟨rfl, rfl⟩, by decide +kernel, by decide, by decide, by decide +kernel, fun _ => rfl⟩

theorem witness_ProgramControlCodeCompletes :
    ∀ l, l = PageLabel.p5Rb2 ∨ l = .p1Rb2 → ∃ s t : State, s.desc? = some fixtureFirst ∧ s.pc = .resume (.pages l) ∧
      s.locals.i = 0 ∧ s.locals.img.length = 16 ∧
      busRead (Machine.translate .nvm s.cc) 16 s = some (.bytes s.locals.img, t) :=
  fun l _ => ⟨procedureAt 0x0004000C 12 (.pages l) [] [some (.bytes (pageOf 0))], _, rfl, rfl, rfl, List.length_replicate, rfl⟩

theorem witness_SetControlCodeCompletes :
    (busyAt 0xF0D .start).pc = .resume .start ∧ (15#8).toNat ≤ 15 ∧ 15 < (16#8).toNat := by decide

theorem witness_SetDeviceCompletes :
    (busyAt 0xE .start).pc = .resume .start ∧ (busyAt 0xE .start).params.wf ∧ 256 < (257#9).toNat ∧
    (256#9).toNat ≤ 256 ∧
    (∃ d, fixtureParams.descriptors[1]? = some d ∧
      d.name = (List.range (8#9).toNat).map
        (holding [0x53, 0x4C, 0x47, 0x34, 0x36, 0x38, 0x32, 0x36] (busyAt 0x0008000E .start)).data.read) ∧
    (∀ d ∈ (busyAt 0xE .start).params.descriptors, d.name ≠ (List.range (256#9).toNat).map (busyAt 0xE .start).data.read) :=
  ⟨rfl, by decide +kernel, by decide, by decide, ⟨_, rfl, by decide⟩, by decide⟩

/-! ### Witnesses: the host port and the invariant -/

theorem witness_HostReadsTheWindow :
    (∀ off ∈ [0x000, 0x004, 0x008, 0x00C, 0x010, 0x014, 0x018, 0x0FC, 0x100, 0x1FC],
      ∀ s ∈ [hostTurn (.read off) s0, hostTurn (.read off) (busyAt 0x9 .x2)],
      s.schedule = .host (.read off) :: [] ∧ off % 4 = 0 ∧ off < 512) ∧
    (∀ off ∈ [0x1FD, 0x200], (hostTurn (.read off) s0).schedule = .host (.read off) :: [] ∧
      (off % 4 ≠ 0 ∨ 512 ≤ off)) := by decide

theorem witness_HostWritesData :
    ∀ off ∈ [0x100, 0x1FC],
      (hostTurn (.write off 0x44332211) s0).schedule = .host (.write off 0x44332211) :: [] ∧
      (hostTurn (.write off 0x44332211) s0).status.busy = false ∧ (hostTurn (.write off 0x44332211) s0).data.wf ∧
      off % 4 = 0 ∧ 0x100 ≤ off ∧ off < 0x200 := by decide

theorem witness_HostWritesThatAreIgnored :
    (∀ off ∈ [0x000, 0x100, 0x1FC],
      (hostTurn (.write off 0) (busyAt 0x9 .start)).schedule = .host (.write off 0) :: [] ∧
      (hostTurn (.write off 0) (busyAt 0x9 .start)).status.busy = true ∧
      (off = 0 ∨ (0x100 ≤ off ∧ off < 0x200 ∧ off % 4 = 0))) ∧
    (∀ off ∈ [0x004, 0x0FC], off % 4 = 0 ∧ 0 < off ∧ off < 0x100) ∧ (∀ off ∈ [0x002, 0x200], off % 4 ≠ 0 ∨ 0x200 ≤ off) := by
  decide

/-- In a running command, in a hung one, and with a device index outside the table. -/
theorem witness_ControllerResetState :
    ((hostTurn (.reset 1 15) (busyAt 0x9 .x2)).schedule = .host (.reset 1 15) :: [] ∧
      (1#8).toNat < (hostTurn (.reset 1 15) (busyAt 0x9 .x2)).params.descriptors.length) ∧
    (∃ s t : State, Hung s ∧ s.schedule = .host (.reset 0 1) :: [] ∧ (0#8).toNat < s.params.descriptors.length ∧
      step s = .next t ∧ t.readAnswers = [some .fail]) ∧
    (hostTurn (.reset 2 15) s0).params.descriptors.length ≤ (2#8).toNat :=
  ⟨by decide,
    ⟨{ busyAt 0x00102011 .rb2 with readAnswers := [none, some .fail], schedule := [.host (.reset 0 1)] }, _,
      .inr ⟨rfl, rfl⟩, rfl, by decide, rfl, rfl⟩, by decide⟩

theorem witness_ScriptLinesRun :
    ((hostTurn (.command 0x9) s0).schedule = .host (.command 0x9) :: [] ∧ (hostTurn (.command 0x9) s0).status.busy = false) ∧
    (hostTurn (.directive 252 [1, 2, 3, 4]) s0).schedule = .host (.directive 252 [1, 2, 3, 4]) :: [] ∧
    (hostTurn (.directive 252 [1, 2, 3, 4]) s0).data.wf ∧ 252 + [(1 : Byte), 2, 3, 4].length ≤ 256 ∧
    ((hostTurn (.directive 253 [1, 2, 3, 4]) s0).schedule = .host (.directive 253 [1, 2, 3, 4]) :: [] ∧
      (hostTurn (.directive 253 [1, 2, 3, 4]) s0).status.busy = false ∧ 256 < 253 + [(1 : Byte), 2, 3, 4].length) := by
  decide

theorem witness_StepKeepsSoundness :
    Sound atPagesWrite ∧ ∃ t, step atPagesWrite = .next t := ⟨sound_atPagesWrite, _, rfl⟩

theorem witness_SoundRunsNeverFault : Sound (busyAt 0x00000216 .start) := sound_start _

end Sys2Proof.Tests
end

