-- ==== Sys2Proof/Proofs/Scope.lean ====
section
/-! PROOFS. The errata dummy write and the waits of the page procedures (R78, R79, R80, R103), and the first step of
PROGRAM_PAGES (R81, R82, R89). -/

namespace Sys2Proof.Machine

/-! ### A command at a label of its page procedure -/

section AtLabel

variable {s : State} {d : DeviceDescriptor} (hd : s.desc? = some d)
include hd

theorem exec_erasePage_atLabel {l : EraseLabel} (hl : s.pc = .resume (.erase l)) (sp : Space) (p : Byte) :
    exec (.erasePage sp p) s =
      .next (erasePageStep d sp (nibble p) true .erase (fun e s' => finish (if e then 1 else 0) s') l s) := by
  simp only [exec, execErasePage, hl, withDesc_of_some hd]

theorem exec_programPage_atLabel {l : PageLabel} (hl : s.pc = .resume (.page l)) (sp : Space) (p : Byte) :
    exec (.programPage sp p) s =
      .next (programPageStep d sp (nibble p) (s.dataSlice 0 16) .page
        (fun prog e s' => finish ((if e then 2 else 0) ||| (if prog then 1 else 0)) s') l s) := by
  simp only [exec, execProgramPage, hl, withDesc_of_some hd]

theorem exec_programPages_atLabel {l : PageLabel} (hl : s.pc = .resume (.pages l)) (sp : Space) (a : Byte)
    (n : BitVec 9) :
    exec (.programPages sp a n) s =
      .next (programPagesStep d sp (nibble a) (n.toNat / 16) (s.dataSlice (16 * s.locals.i.toNat) 16) l s) := by
  simp only [exec, execProgramPages, hl, withDesc_of_some hd]

theorem exec_programControlCode_atLabel {l : PageLabel} (hl : s.pc = .resume (.pages l)) (n : BitVec 9) :
    exec (.programControlCode n) s =
      .next (programPagesStep d .nvm (controlCodePageIndex d) 1
        ((s.locals.img.drop (16 * s.locals.i.toNat)).take 16) l s) := by
  simp only [exec, execProgramControlCode, hl, withDesc_of_some hd]

end AtLabel

/-! ### The dummy write and the waits -/

/-- An answered dummy write goes on at `next`, whatever the answer (R103). -/
theorem errata_of_answer {s t : State} {ok : Bool}
    (hw : busWrite (translate .register s.cc) (dummyBytes s.params.errataDummyPayload) s = some (ok, t))
    (next : Label) : errata next s = t.setLabel next := by
  simp only [errata, hw]

/-- ErasePage at its dummy write goes on to the verify read, whatever the answer (R79, R103). -/
theorem erasePageStep_dummyWrite {s t : State} {ok : Bool}
    (hw : busWrite (translate .register s.cc) (dummyBytes s.params.errataDummyPayload) s = some (ok, t))
    (d : DeviceDescriptor) (sp : Space) (p : Page) (standalone : Bool) (lbl : EraseLabel → Label)
    (ret : Bool → State → State) :
    erasePageStep d sp p standalone lbl ret .e4D1 s = t.setLabel (lbl .e5Rb1) :=
  errata_of_answer hw _

/-- ProgramPage at the dummy write of its ErasePage goes on to the verify read, whatever the answer (R80, R103). -/
theorem programPageStep_dummyWrite {s t : State} {ok : Bool}
    (hw : busWrite (translate .register s.cc) (dummyBytes s.params.errataDummyPayload) s = some (ok, t))
    (d : DeviceDescriptor) (sp : Space) (p : Page) (target : List Byte) (lbl : PageLabel → Label)
    (ret : Bool → Bool → State → State) :
    programPageStep d sp p target lbl ret (.p2 .e4D1) s = t.setLabel (lbl (.p2 .e5Rb1)) := by
  rw [programPageStep, erasePageStep_dummyWrite hw]

/-! ### The pages of a range -/

/-- Page number `i` of a range from page `a`, in numbers (R37, R81). -/
theorem rangePage_toNat {a : Byte} {i : Nat} (h : a.toNat + i < 16) :
    (nibble a + BitVec.ofNat 4 i).toNat = a.toNat + i := by
  rw [BitVec.toNat_add, nibble_toNat (by omega), BitVec.toNat_ofNat]
  omega

/-- A page from `a` on is the page of its distance to `a`. -/
theorem rangePage_sub {a : Byte} {k : Page} (h : a.toNat ≤ k.toNat) :
    nibble a + BitVec.ofNat 4 (k.toNat - a.toNat) = k := by
  have hk := k.isLt
  apply BitVec.eq_of_toNat_eq
  rw [rangePage_toNat (by omega)]
  omega

/-- What holds of every page from `a` up to `m` holds of each page number of that range. -/
theorem forall_rangePage {P : Page → Prop} {a : Byte} {m : Nat} (hm : m ≤ 16)
    (h : ∀ k : Page, a.toNat ≤ k.toNat → k.toNat < m → P k) :
    ∀ i < m - a.toNat, P (nibble a + BitVec.ofNat 4 i) := by
  intro i hi
  have hp := rangePage_toNat (a := a) (i := i) (by omega)
  exact h _ (by omega) (by omega)

/-! ### Skipping pages -/

/-- RESULT with no page programmed is the skipped bitmap (R82). -/
theorem resultBitmaps_zero_getLsbD (sk : BitVec 16) (k : Nat) : (resultBitmaps 0 sk).getLsbD k = sk.getLsbD k := by
  have hk (h : sk.getLsbD k = true) : k < 32 := (BitVec.lt_of_getLsbD h).trans (by decide)
  simpa [resultBitmaps] using hk

/-- Skipping pages changes the locals and RESULT alone, and RESULT only if there is a page to skip (R81). -/
theorem skipPages_eq (sp : Page) (k i : Nat) (s : State) :
    skipPages sp k i s =
      { s with
        locals := (skipPages sp k i s).locals
        result := if k = 0 then s.result
          else resultBitmaps (skipPages sp k i s).locals.programmed (skipPages sp k i s).locals.skipped } := by
  have hresult : (skipPages sp k i s).result = if k = 0 then s.result
      else resultBitmaps (skipPages sp k i s).locals.programmed (skipPages sp k i s).locals.skipped := by
    cases k with
    | zero => rfl
    | succ k =>
      obtain ⟨-, -, -, -, -, -, -, h, -⟩ := skipPages_spec sp k (i + 1)
        (writeBitmaps (s.setLocals
          { s.locals with
            i := BitVec.ofNat 4 i, p := sp + BitVec.ofNat 4 i,
            skipped := addBit s.locals.skipped (sp + BitVec.ofNat 4 i) }))
      exact h rfl
  obtain ⟨hst, hei, hpc, -⟩ := skipPages_spec sp k i s
  obtain ⟨_, _, _, _, _, heq, -⟩ := silent_skipPages sp k i s
  rw [← hresult]
  rw [heq] at hst hei hpc ⊢
  simp only at hst hei hpc
  rw [hst, hei, hpc]

/-- Skipping the first `n` pages of a range from page `a` with no page skipped before sets their bits and no other. -/
theorem skipPages_skipped {a : Byte} {n : Nat} {s : State} (h : a.toNat + n ≤ 16) (h0 : s.locals.skipped = 0)
    (b : Nat) :
    (skipPages (nibble a) n 0 s).locals.skipped.getLsbD b =
      (decide (a.toNat ≤ b) && decide (b < a.toNat + n)) := by
  obtain ⟨-, -, -, -, -, -, -, -, hbits⟩ := skipPages_spec (nibble a) n 0 s
  have hmem : (∃ j < n, b = (nibble a + BitVec.ofNat 4 (0 + j)).toNat) ↔ a.toNat ≤ b ∧ b < a.toNat + n := by
    constructor
    · rintro ⟨j, hj, rfl⟩
      rw [Nat.zero_add, rangePage_toNat (by omega)]
      omega
    · rintro ⟨hab, hbn⟩
      exact ⟨b - a.toNat, by omega, by rw [Nat.zero_add, rangePage_toNat (by omega)]; omega⟩
  rw [hbits b, h0]
  simp only [hmem, Bool.decide_and]
  simp

/-! ### The loop of ProgramPages -/

section Loop

variable {d : DeviceDescriptor} {space : Space} {sp : Page}

/-- With no writable page left the loop skips them all and ends (R81). -/
theorem pagesLoop_of_noneWritable {k i : Nat}
    (h : ∀ j < k, pageWritable d space (sp + BitVec.ofNat 4 (i + j)) = false) (s : State) :
    pagesLoop d space sp k i s =
      finish (resultBitmaps (skipPages sp k i s).locals.programmed (skipPages sp k i s).locals.skipped)
        (skipPages sp k i s) := by
  obtain ⟨n, -, -, ⟨rfl, he⟩ | ⟨hn, hw, -⟩⟩ := pagesLoop_cases d space sp k i s
  · exact he
  · rw [h n hn] at hw
    contradiction

/-- The loop skips the pages before the first writable one, and begins that one (R81). -/
theorem pagesLoop_of_firstWritable {k i n : Nat} (hn : n < k)
    (hw : pageWritable d space (sp + BitVec.ofNat 4 (i + n)) = true)
    (h : ∀ j < n, pageWritable d space (sp + BitVec.ofNat 4 (i + j)) = false) (s : State) :
    pagesLoop d space sp k i s =
      (beginPage space (sp + BitVec.ofNat 4 (i + n))
        ((skipPages sp n i s).setLocals
          { (skipPages sp n i s).locals with
            i := BitVec.ofNat 4 (i + n), p := sp + BitVec.ofNat 4 (i + n) })).setLabel (.pages .p1Rb1) := by
  obtain ⟨m, -, hm, hc⟩ := pagesLoop_cases d space sp k i s
  have hmn : m ≤ n := by
    by_contra hlt
    rw [hm n (by omega)] at hw
    contradiction
  obtain ⟨rfl, -⟩ | ⟨-, hwm, he⟩ := hc
  · omega
  · have hnm : n ≤ m := by
      by_contra hlt
      rw [h m (by omega)] at hwm
      contradiction
    obtain rfl : m = n := by omega
    exact he

/-- The page that Fail reports is the lowest one that is not writable (R81). -/
theorem firstReadOnly_eq_some {np n : Nat} (hn : n < np)
    (hw : pageWritable d space (sp + BitVec.ofNat 4 n) = false)
    (h : ∀ j < n, pageWritable d space (sp + BitVec.ofNat 4 j) = true) :
    firstReadOnly d space sp np = some (sp + BitVec.ofNat 4 n) := by
  rw [firstReadOnly, List.find?_eq_some_iff_getElem]
  refine ⟨by simp [hw], n, by simpa using hn, by simp, fun j hj => ?_⟩
  simp [h j hj]

end Loop

/-! ### ProgramPages from its beginning -/

section Enter

variable {d : DeviceDescriptor} {space : Space} {a : Byte} {np n : Nat} {s : State}

/-- The state in which ProgramPages enters its loop: both bitmaps are empty (R81). -/
def State.clearBitmaps (s : State) : State := s.setLocals { s.locals with skipped := 0, programmed := 0 }

/-- Under Fail ProgramPages raises ReadOnlyPageError for the lowest page that is not writable (R81). -/
theorem enterProgramPages_raises (hfail : s.params.roPolicy = .fail) (hn : n < np)
    (hw : pageWritable d space (nibble a + BitVec.ofNat 4 n) = false)
    (h : ∀ j < n, pageWritable d space (nibble a + BitVec.ofNat 4 j) = true) :
    enterProgramPages d space (nibble a) np s = raise (.readOnlyPage (nibble a + BitVec.ofNat 4 n)) s := by
  simp only [enterProgramPages, hfail, if_true, firstReadOnly_eq_some hn hw h]

/-- ProgramPages enters its loop under Skip, and under any policy where every page is writable (R81). -/
theorem enterProgramPages_loops (h : s.params.roPolicy = .skip ∨
      ∀ i < np, pageWritable d space (nibble a + BitVec.ofNat 4 i) = true) :
    enterProgramPages d space (nibble a) np s = pagesLoop d space (nibble a) np 0 s.clearBitmaps := by
  obtain ⟨p, hfail, hfirst, -⟩ | ⟨-, he⟩ := enterProgramPages_cases d space (nibble a) np s
  · obtain hskip | hall := h
    · rw [hskip] at hfail
      contradiction
    · rw [(firstReadOnly_eq_none d space).2 hall] at hfirst
      contradiction
  · exact he

/-- A range with no writable page ends at once under Skip, with each page in the skipped half of RESULT (R81, R82). -/
theorem enterProgramPages_ends (hskip : s.params.roPolicy = .skip) (hr : a.toNat + np ≤ 16)
    (h : ∀ j < np, pageWritable d space (nibble a + BitVec.ofNat 4 j) = false) :
    ∃ l r, enterProgramPages d space (nibble a) np s = finish r { s with locals := l } ∧
      ∀ k, r.getLsbD k = (decide (a.toNat ≤ k) && decide (k < a.toNat + np)) := by
  have hloop := pagesLoop_of_noneWritable (i := 0) (by simpa using h) s.clearBitmaps
  obtain ⟨-, -, -, hpr, -⟩ := skipPages_spec (nibble a) np 0 s.clearBitmaps
  refine ⟨(skipPages (nibble a) np 0 s.clearBitmaps).locals,
    resultBitmaps 0 (skipPages (nibble a) np 0 s.clearBitmaps).locals.skipped, ?_, fun k => ?_⟩
  · rw [enterProgramPages_loops (.inl hskip), hloop, hpr, skipPages_eq]
    rfl
  · rw [← skipPages_skipped hr (s := s.clearBitmaps) rfl k]
    exact resultBitmaps_zero_getLsbD _ k

/-- Where ProgramPages enters its loop it begins the first writable page of the range: the pages before it are skipped,
and RESULT is written if there are any (R81, R82). -/
theorem enterProgramPages_begins (hpolicy : s.params.roPolicy = .skip ∨
      ∀ i < np, pageWritable d space (nibble a + BitVec.ofNat 4 i) = true)
    (hr : a.toNat + np ≤ 16) (hn : n < np) (hw : pageWritable d space (nibble a + BitVec.ofNat 4 n) = true)
    (h : ∀ j < n, pageWritable d space (nibble a + BitVec.ofNat 4 j) = false) :
    ∃ l, enterProgramPages d space (nibble a) np s =
        { s with
          locals := l, pc := .resume (.pages .p1Rb1),
          result := if n = 0 then s.result else resultBitmaps 0 l.skipped,
          status := { s.status with ppage := nibble a + BitVec.ofNat 4 n, pspace := space, pstate := .check } } ∧
      l.i = BitVec.ofNat 4 n ∧ l.p = nibble a + BitVec.ofNat 4 n ∧ l.programmed = 0 ∧
      ∀ b, l.skipped.getLsbD b = (decide (a.toNat ≤ b) && decide (b < a.toNat + n)) := by
  have hloop := pagesLoop_of_firstWritable (i := 0) hn (by simpa using hw) (by simpa using h) s.clearBitmaps
  obtain ⟨-, -, -, hpr, -⟩ := skipPages_spec (nibble a) n 0 s.clearBitmaps
  refine ⟨{ (skipPages (nibble a) n 0 s.clearBitmaps).locals with
      i := BitVec.ofNat 4 n, p := nibble a + BitVec.ofNat 4 n }, ?_, rfl, rfl, hpr,
    skipPages_skipped (by omega) rfl⟩
  rw [enterProgramPages_loops hpolicy, hloop, Nat.zero_add, skipPages_eq, hpr]
  rfl

end Enter

/-! ### The first step of PROGRAM_PAGES -/

section Start

variable {s : State} {sp : Space} {a : Byte} {n : BitVec 9}

/-- Operands out of range raise PreconditionError (R89, R102). -/
theorem exec_programPages_precondition (hpc : s.pc = .resume .start)
    (h : sp = .register ∨ n.toNat = 0 ∨ n.toNat % 16 ≠ 0 ∨ 256 < 16 * a.toNat + n.toNat) :
    exec (.programPages sp a n) s = .next (raise .precondition s) := by
  have hbad : badPages sp a n = true := badPages_iff.2 (by rwa [Nat.mul_comm a.toNat 16])
  simp only [exec, execProgramPages, hpc, hbad, if_true]

/-- Operands in range enter ProgramPages (R89). -/
theorem exec_programPages_enters {d : DeviceDescriptor} (hpc : s.pc = .resume .start) (hd : s.desc? = some d)
    (hsp : sp ≠ .register) (h0 : 0 < n.toNat) (h16 : n.toNat % 16 = 0) (hr : 16 * a.toNat + n.toNat ≤ 256) :
    exec (.programPages sp a n) s = .next (enterProgramPages d sp (nibble a) (n.toNat / 16) s) := by
  have hbad : ¬badPages sp a n = true := by
    rw [badPages_iff]
    rintro (h | h | h | h)
    · exact hsp h
    all_goals omega
  simp only [exec, execProgramPages, hpc, if_neg hbad, withDesc_of_some hd]

end Start

end Sys2Proof.Machine

namespace Sys2Proof.Safety

open Sys2Proof.Machine

/-- A sound state inside a page procedure has a selected descriptor and a page job. -/
theorem Sound.desc_and_job {s : State} (hi : Sound s) {l : Label} (hl : s.pc = .resume l)
    (hp : inPageProcedure l = true) : ∃ d j, s.desc? = some d ∧ pageJob s = some j := by
  obtain ⟨d, hd, -⟩ := State.desc_isSome hi.devsel_lt
  obtain ⟨j, hj, -⟩ := hi.page_named l hl hp
  exact ⟨d, j, hd, hj⟩

theorem EraseNaming.inPageProcedure {lbl : EraseLabel → Label} (h : EraseNaming lbl) (l : EraseLabel) :
    inPageProcedure (lbl l) = true := by
  obtain rfl | rfl | rfl := h <;> rfl

theorem PageNaming.inPageProcedure {lbl : PageLabel → Label} (h : PageNaming lbl) (l : PageLabel) :
    inPageProcedure (lbl l) = true := by
  obtain rfl | rfl := h <;> rfl

/-- The erase wait goes on to the dummy write under the workaround, and else to the verify read (R79 E3). -/
theorem exec_eraseWait {s : State} {lbl : EraseLabel → Label} (hi : Sound s) (hn : EraseNaming lbl)
    (hl : s.pc = .resume (lbl .e3)) :
    exec s.command s =
      .next ((busWait .erase s).setLabel (if s.params.errataWorkaround then lbl .e4D1 else lbl .e5Rb1)) := by
  obtain ⟨d, j, hd, hj⟩ := hi.desc_and_job hl (hn.inPageProcedure _)
  obtain ⟨standalone, ret, h⟩ := exec_erasePage hi hn hl hd hj
  exact h

/-- The program wait goes on to the verify read (R80 P4). -/
theorem exec_programWait {s : State} {lbl : PageLabel → Label} (hi : Sound s) (hn : PageNaming lbl)
    (hl : s.pc = .resume (lbl .p4)) :
    exec s.command s = .next ((busWait .program s).setLabel (lbl .p5Rb1)) := by
  obtain ⟨d, j, hd, hj⟩ := hi.desc_and_job hl (hn.inPageProcedure _)
  obtain ⟨ret, h⟩ := exec_programPage hi hn hl hd hj
  exact h

end Sys2Proof.Safety

namespace Sys2Proof.Proofs

open Sys2Proof.Machine Sys2Proof.Safety

/-- Settles O36: ProgramPages is entered with operands in range, and the position of the first page that is writable, or
that is not, decides what it does. -/
theorem programPagesBegins : Obligations.ProgramPagesBegins := by
  intro sp a n s d hpc hd
  refine ⟨exec_programPages_precondition hpc, fun hsp h0 h16 hr => ?_⟩
  have hnp : a.toNat + n.toNat / 16 ≤ 16 := by omega
  have hlen : a.toNat + n.toNat / 16 - a.toNat = n.toNat / 16 := Nat.add_sub_cancel_left ..
  rw [exec_programPages_enters hpc hd hsp h0 h16 hr]
  refine ⟨fun k hfail hak hk hro hbefore => ?_, fun hskip hnone => ?_, fun hw hpolicy => ?_,
    fun k hskip hak hk hw hbefore => ?_⟩
  · have hbefore := forall_rangePage (Nat.le_of_lt k.isLt) hbefore
    rw [enterProgramPages_raises hfail (by omega) (by rwa [rangePage_sub hak]) hbefore, rangePage_sub hak]
  · obtain ⟨l, r, he, hbits⟩ := enterProgramPages_ends hskip hnp (hlen ▸ forall_rangePage hnp hnone)
    exact ⟨l, r, congrArg _ he, hbits⟩
  · have hfirst : nibble a + BitVec.ofNat 4 0 = a.setWidth 4 := BitVec.add_zero _
    obtain ⟨l, he, hi, hp, hprog, hbits⟩ := enterProgramPages_begins (n := 0)
      (hpolicy.imp_right fun hall => hlen ▸ forall_rangePage hnp hall) hnp (by omega) (hfirst ▸ hw) (by simp)
    rw [hfirst] at he hp
    refine ⟨l, congrArg _ he, hi, hp, ?_, hprog⟩
    apply BitVec.eq_of_getLsbD_eq
    intro b _
    rw [hbits b]
    simp
  · have hbefore := forall_rangePage (Nat.le_of_lt k.isLt) hbefore
    obtain ⟨l, he, hi, hp, hprog, hbits⟩ := enterProgramPages_begins (.inl hskip) hnp
      (by omega) (by rwa [rangePage_sub hak]) hbefore
    rw [rangePage_sub hak] at he hp
    have hzero : k.toNat - a.toNat = 0 ↔ k.toNat = a.toNat := by omega
    simp only [hzero] at he
    refine ⟨l, congrArg _ he, ?_, hp, hprog, fun b => ?_⟩
    · rw [hi, BitVec.toNat_ofNat]
      omega
    · rw [hbits b, Nat.add_sub_cancel' hak]

/-- Settles O33: the answer of the dummy write is not looked at, and each wait has its one successor. -/
theorem dummyAnswerIsIgnored : Obligations.DummyAnswerIsIgnored := by
  refine ⟨⟨rfl, rfl⟩, fun sp p s t d ok hd hw => ⟨fun hl => ?_, fun hl => ?_, fun hl a n => ⟨?_, ?_⟩⟩,
    fun s lbl hi hn hl => exec_eraseWait hi hn hl, fun s lbl hi hn hl => exec_programWait hi hn hl⟩
  · rw [exec_erasePage_atLabel hd hl, erasePageStep_dummyWrite hw]
    rfl
  · rw [exec_programPage_atLabel hd hl, programPageStep_dummyWrite hw]
    rfl
  · rw [exec_programPages_atLabel hd hl, programPagesStep, programPageStep_dummyWrite hw]
    rfl
  · rw [exec_programControlCode_atLabel hd hl, programPagesStep, programPageStep_dummyWrite hw]
    rfl

end Sys2Proof.Proofs
end

/-! PROOFS. What one step of a command can do, said once (`CommandStep`, `exec_cases`), and from it: the frame of a
command, its events and errors, PSTATE, the invariant, and that no run from a sound state ends in a fault. And what the
host's accesses to the window do, offset by offset. -/

namespace Sys2Proof.Machine

open Sys2Proof.Safety

/-! ### Quiet work: what a command does between its bus event and its end -/

/-- `v` is `u` but for PSTATE, PPAGE, PSPACE, RESULT and the locals: work that neither ends the command nor leaves its
label. -/
structure Quiet (u v : State) : Prop where
  eq : ∃ ps pp sp r l,
    v = { u with status := { u.status with pstate := ps, ppage := pp, pspace := sp }, result := r, locals := l }

theorem Quiet.refl (u : State) : Quiet u u := ⟨_, _, _, _, _, rfl⟩

theorem Quiet.trans {u v w : State} (h : Quiet u v) (h' : Quiet v w) : Quiet u w := by
  obtain ⟨_, _, _, _, _, rfl⟩ := h
  obtain ⟨_, _, _, _, _, rfl⟩ := h'
  exact ⟨_, _, _, _, _, rfl⟩

theorem quiet_setLocals (l : Locals) (u : State) : Quiet u (u.setLocals l) := ⟨_, _, _, _, _, rfl⟩
theorem quiet_beginPage (sp : Space) (p : Page) (u : State) : Quiet u (beginPage sp p u) := ⟨_, _, _, _, _, rfl⟩
theorem quiet_writeBitmaps (u : State) : Quiet u (writeBitmaps u) := ⟨_, _, _, _, _, rfl⟩

theorem quiet_skipPages (sp : Page) (k i : Nat) (u : State) : Quiet u (skipPages sp k i u) := by
  rw [skipPages_eq]
  exact ⟨_, _, _, _, _, rfl⟩

theorem quiet_markFound (ok : Bool) (u : State) : Quiet u (markFound ok u) := by
  cases ok
  · exact .refl u
  · exact quiet_setLocals _ u

/-- Quiet work inside one page procedure: PSTATE and the locals `buf` and `erasedNow` alone. -/
structure SamePage (u v : State) : Prop where
  eq : ∃ ps xs b,
    v = { u with status := { u.status with pstate := ps }, locals := { u.locals with buf := xs, erasedNow := b } }

theorem SamePage.refl (u : State) : SamePage u u := ⟨_, _, _, rfl⟩

theorem SamePage.quiet {u v : State} (h : SamePage u v) : Quiet u v := by
  obtain ⟨_, _, _, rfl⟩ := h
  exact ⟨_, _, _, _, _, rfl⟩

theorem samePage_setBuf (xs : List Byte) (u : State) : SamePage u (u.setBuf xs) := ⟨_, _, _, rfl⟩

theorem samePage_setBuf_setPState (xs : List Byte) (p : PState) (u : State) :
    SamePage u ((u.setBuf xs).setPState p) := ⟨_, _, _, rfl⟩

/-! ### The parts of a step -/

/-- The bus address of a transaction. -/
def Event.address? : Event → Option Addr7
  | .write a7 _ _ | .read a7 _ _ => some a7
  | .wait _ => none

/-- The event is at an address the command may use: of the code in CC, but for the scans (R28, R38). -/
def Addressed (i : Instr) (s : State) (e : Event) : Prop :=
  ∀ a7, e.address? = some a7 → ∃ sp cc, a7 = translate sp cc ∧
    ((∀ c, i ≠ .scanDevice c) → i ≠ .scanDevices → cc = s.cc)

theorem addressed_write {i : Instr} {s : State} {sp : Space} {bytes : List Byte} {ok : Bool} :
    Addressed i s (.write (translate sp s.cc) bytes ok) := by
  rintro a7 ⟨⟩
  exact ⟨_, _, rfl, fun _ _ => rfl⟩

theorem addressed_read {i : Instr} {s : State} {sp : Space} {n : Nat} {r : ReadReply} :
    Addressed i s (.read (translate sp s.cc) n r) := by
  rintro a7 ⟨⟩
  exact ⟨_, _, rfl, fun _ _ => rfl⟩

theorem addressed_wait {i : Instr} {s : State} {k : WaitKind} : Addressed i s (.wait k) := nofun

/-- How a step that starts at a label comes to the state `v` before its end: by quiet work alone in a first step, and
after one bus event in every other (R34). -/
inductive Stage (i : Instr) (s : State) (l : Label) (v : State) : Option Event → Prop
  | first : l = .start → Quiet s v → Stage i s l v none
  | event {e : Event} {u : State} : l ≠ .start → Moved e s u → Addressed i s e → Quiet u v → Stage i s l v (some e)

theorem Stage.quiet {i : Instr} {s v w : State} {l : Label} {o : Option Event} (h : Stage i s l v o)
    (hq : Quiet v w) : Stage i s l w o := by
  cases h with
  | first hl h => exact .first hl (h.trans hq)
  | event hl hm ha h => exact .event hl hm ha (h.trans hq)

/-- The PSTATE a step leaves before its end is one that R83 allows after that of the label it started at. -/
def Shown (s : State) (l : Label) (v : State) : Prop :=
  s.status.pstate = labelPState l →
    visibleMove (labelPState l) v.status.pstate = true ∧ v.status.pstate ≠ .failed

/-- Two labels of one page procedure. -/
inductive SameProcedure : Label → Label → Prop
  | erase (a b : EraseLabel) : SameProcedure (.erase a) (.erase b)
  | page (a b : PageLabel) : SameProcedure (.page a) (.page b)
  | pages (a b : PageLabel) : SameProcedure (.pages a) (.pages b)

/-- The space, the first page and the number of pages of a command's ProgramPages (R89, R94). -/
def programRange (d : DeviceDescriptor) : Instr → Option (Space × Page × Nat)
  | .programPages sp a n => some (sp, nibble a, n.toNat / 16)
  | .programControlCode _ => some (.nvm, controlCodePageIndex d, 1)
  | _ => none

/-- The page procedure that a step which started at `l` begins, and the label it begins at. -/
inductive Begins (i : Instr) (s : State) (l : Label) (v : State) : Space → Page → Label → Prop
  | erase {sp : Space} {page : Byte} : i = .erasePage sp page → badPage sp page = false →
      Begins i s l v sp (nibble page) (.erase .e1Rb1)
  | page {sp : Space} {page : Byte} : i = .programPage sp page → badPage sp page = false →
      Begins i s l v sp (nibble page) (.page .p1Rb1)
  | pages {d : DeviceDescriptor} {sp : Space} {a : Page} {np j : Nat} :
      s.desc? = some d → programRange d i = some (sp, a, np) → j < np →
      v.locals.i = BitVec.ofNat 4 j → v.locals.p = a + BitVec.ofNat 4 j →
      (legalLabel i l = true → legalLabel i (.pages .p1Rb1) = true) →
      ((l = .start → s.result = 0) → v.result = resultBitmaps v.locals.programmed v.locals.skipped) →
      Begins i s l v sp (a + BitVec.ofNat 4 j) (.pages .p1Rb1)

/-- What a command that finishes writes beside RESULT and STATUS: CC, DEVSEL, DATA or nothing (R72, R74, R92, R95,
R96). -/
inductive Writes (i : Instr) (v : State) : State → Prop
  | nothing : Writes i v v
  | cc (c : Byte) : i = .setControlCode c → Writes i v (v.setCc (nibble c))
  | devsel (n : BitVec 9) {k : Nat} : i = .setDevice n → k < v.params.descriptors.length →
      Writes i v (v.setDevsel (BitVec.ofNat 8 k))
  | data (xs : List Byte) :
      (∃ sp a n, i = .readBytes sp a n) ∨ (∃ sp p, i = .readPage sp p) ∨ i = .scanDevices → xs.length ≤ 256 →
      Writes i v (v.storeData xs)

/-- What an error is raised for: a TransportError names the event that failed (R104), an error of the first step is no
TransportError, and one raised after another event is none of the operand errors (R101). -/
inductive Justified : Option Event → Error → Prop
  | first {e : Error} : e.code ≠ .transportError → Justified none e
  | write (a7 : Addr7) (bytes : List Byte) : Justified (some (.write a7 bytes false)) (.transport a7 false false)
  | readFail (a7 : Addr7) (n : Nat) : Justified (some (.read a7 n .fail)) (.transport a7 true false)
  | readLength (a7 : Addr7) {n : Nat} {xs : List Byte} : xs.length ≠ n →
      Justified (some (.read a7 n (.bytes xs))) (.transport a7 true true)
  | page {ev : Event} {e : Error} : e.code ≠ .transportError → firstStepError e.code = false →
      Justified (some ev) e

/-- Everything a step of command `i` from label `l` can do: wait for the transport, go on at a label outside the page
procedures, go on inside a page procedure, begin one, finish, or raise an error. -/
inductive CommandStep (i : Instr) (s : State) (l : Label) : State → Prop
  | hangs : CommandStep i s l s
  | goesOn {o : Option Event} {v : State} {l' : Label} : Stage i s l v o → v.status.pstate = s.status.pstate →
      inPageProcedure l = false → inPageProcedure l' = false → l' ≠ .start →
      (legalLabel i l = true → legalLabel i l' = true) → CommandStep i s l (v.setLabel l')
  | within {e : Event} {u v : State} {l' : Label} : Moved e s u → Addressed i s e → SamePage u v →
      SameProcedure l l' → (s.status.pstate = labelPState l → v.status.pstate = labelPState l') →
      visibleMove (labelPState l) (labelPState l') = true → CommandStep i s l (v.setLabel l')
  | beginsPage {o : Option Event} {v : State} {sp : Space} {p : Page} {l' : Label} : Stage i s l v o →
      Begins i s l v sp p l' → visibleMove (labelPState l) .check = true →
      CommandStep i s l ((beginPage sp p v).setLabel l')
  | finishes {o : Option Event} {v w : State} (r : Word) : Stage i s l v o → Shown s l v → Writes i v w →
      CommandStep i s l (finish r w)
  | raises {o : Option Event} {v : State} {e : Error} : Stage i s l v o → Shown s l v → Justified o e →
      CommandStep i s l (raise e v)

/-! ### Labels and PSTATE -/

theorem SameProcedure.ne_start {l l' : Label} (h : SameProcedure l l') : l ≠ .start := by cases h <;> nofun

theorem labelPState_of_not_inPageProcedure {l : Label} (h : inPageProcedure l = false) :
    labelPState l = .none := by
  cases l
  case erase | page | pages => cases h
  all_goals rfl

/-- PSTATE at a label is one of the four in which a command can stand (R83). -/
theorem labelPState_mem (l : Label) :
    labelPState l ∈ [PState.none, .check, .erasing, .programming] := by
  have herase (e : EraseLabel) : erasePState e ∈ [PState.none, .check, .erasing, .programming] := by
    cases e <;> decide
  have hpage (p : PageLabel) : pagePState p ∈ [PState.none, .check, .erasing, .programming] := by
    cases p
    case p2 e => exact herase e
    all_goals decide
  cases l
  case erase e => exact herase e
  case page p => exact hpage p
  case pages p => exact hpage p
  all_goals decide

theorem visibleMove_labelPState (l : Label) :
    visibleMove (labelPState l) (labelPState l) = true := by
  have h := labelPState_mem l
  generalize labelPState l = p at h ⊢
  revert p
  decide

theorem labelPState_ne_failed (l : Label) : labelPState l ≠ .failed := by
  have h := labelPState_mem l
  generalize labelPState l = p at h ⊢
  revert p
  decide

/-- A step that leaves PSTATE shows no forbidden move. -/
theorem shown_of_eq {s v : State} {l : Label} (h : v.status.pstate = s.status.pstate) : Shown s l v := by
  intro hl
  rw [h, hl]
  exact ⟨visibleMove_labelPState l, labelPState_ne_failed l⟩

section Naming

variable {lbl : EraseLabel → Label} (h : EraseNaming lbl)
include h

theorem eraseNaming_labelPState (l : EraseLabel) : labelPState (lbl l) = erasePState l := by
  obtain rfl | rfl | rfl := h <;> rfl

theorem eraseNaming_sameProcedure (a b : EraseLabel) : SameProcedure (lbl a) (lbl b) := by
  obtain rfl | rfl | rfl := h
  · exact .erase a b
  · exact .page _ _
  · exact .pages _ _

end Naming

section Naming

variable {lbl : PageLabel → Label} (h : PageNaming lbl)
include h

theorem pageNaming_labelPState (l : PageLabel) : labelPState (lbl l) = pagePState l := by
  obtain rfl | rfl := h <;> rfl

theorem pageNaming_sameProcedure (a b : PageLabel) : SameProcedure (lbl a) (lbl b) := by
  obtain rfl | rfl := h
  · exact .page a b
  · exact .pages a b

theorem pageNaming_p2 : EraseNaming (fun e => lbl (.p2 e)) := by
  obtain rfl | rfl := h
  · exact .inr (.inl rfl)
  · exact .inr (.inr rfl)

end Naming

/-! ### The bus primitives in a command -/

section Primitives

variable {i : Instr} {s : State} {l : Label}

/-- An error raised on the answer to a bus event, with PSTATE as it was. -/
theorem CommandStep.raisesAfter {e : Event} {u v : State} {err : Error} (hl : l ≠ .start) (hm : Moved e s u)
    (ha : Addressed i s e) (hv : SamePage u v) (hp : v.status.pstate = u.status.pstate)
    (hj : Justified (some e) err) : CommandStep i s l (raise err v) :=
  .raises (.event hl hm ha hv.quiet) (shown_of_eq (hp.trans (congrArg _ hm.status))) hj

theorem commandStep_readAddress (sp : Space) (a : Byte) (next : Label)
    (hgo : ∀ u, Moved (.write (translate sp s.cc) [a] true) s u → CommandStep i s l (u.setLabel next))
    (hl : l ≠ .start := by decide) :
    CommandStep i s l (readAddress sp a next s) := by
  obtain ⟨-, h⟩ | ⟨u, hm, h⟩ | ⟨u, hm, h⟩ := readAddress_cases sp a next s <;> rw [h]
  · exact .hangs
  · exact hgo u hm
  · exact .raisesAfter hl hm addressed_write (.refl u) rfl (.write ..)

theorem commandStep_readData (sp : Space) (n : Nat) (k : List Byte → State → State)
    (hk : ∀ xs u, Moved (.read (translate sp s.cc) n (.bytes xs)) s u → xs.length = n → n ≤ 256 →
      CommandStep i s l (k xs u))
    (hl : l ≠ .start := by decide) :
    CommandStep i s l (readData sp n k s) := by
  obtain ⟨-, h⟩ | ⟨u, xs, hm, hlen, hn, h⟩ | ⟨u, xs, hm, hlen, h⟩ | ⟨u, hm, h⟩ := readData_cases sp n k s <;> rw [h]
  · exact .hangs
  · exact hk xs u hm hlen hn
  · exact .raisesAfter hl hm addressed_read (.refl u) rfl (.readLength _ hlen)
  · exact .raisesAfter hl hm addressed_read (.refl u) rfl (.readFail ..)

theorem commandStep_memWrite (sp : Space) (a : Byte) (xs : List Byte) (k : State → State)
    (hk : ∀ u, Moved (.write (translate sp s.cc) (a :: xs) true) s u → CommandStep i s l (k u))
    (hl : l ≠ .start := by decide) :
    CommandStep i s l (memWrite sp a xs k s) := by
  obtain ⟨-, h⟩ | ⟨u, hm, h⟩ | ⟨u, hm, h⟩ := memWrite_cases sp a xs k s <;> rw [h]
  · exact .hangs
  · exact hk u hm
  · exact .raisesAfter hl hm addressed_write (.refl u) rfl (.write ..)

end Primitives

/-! ### The page procedures in a command -/

section Procedures

variable {i : Instr} {s : State}

/-- Where ErasePage returns to its caller, its answer and the PSTATE it leaves (R79). -/
def EraseReturns (standalone : Bool) (l : EraseLabel) (erased : Bool) (v : State) : Prop :=
  (l = .e1Rb2 ∧ erased = false ∧ v.status.pstate = if standalone then .clean else .erased) ∨
  (l = .e5Rb2 ∧ erased = true ∧ v.status.pstate = .erased)

/-- Where ProgramPage returns to its caller, and the PSTATE it leaves (R80). -/
def PageReturns (l : PageLabel) (v : State) : Prop :=
  (l = .p1Rb2 ∧ v.status.pstate = .clean) ∨ (l = .p5Rb2 ∧ v.status.pstate = .verified)

/-- A step of ErasePage inside a command, if what its caller does with the answer is a step of that command. -/
theorem commandStep_erasePageStep {lbl : EraseLabel → Label} (hn : EraseNaming lbl) (d : DeviceDescriptor)
    (sp : Space) (p : Page) {standalone : Bool} {ret : Bool → State → State} {l : EraseLabel}
    (hret : ∀ e u v erased, Moved e s u → Addressed i s e → SamePage u v → EraseReturns standalone l erased v →
      CommandStep i s (lbl l) (ret erased v)) :
    CommandStep i s (lbl l) (erasePageStep d sp p standalone lbl ret l s) := by
  have hlbl (a b : EraseLabel) : SameProcedure (lbl a) (lbl b) := eraseNaming_sameProcedure hn a b
  have hps (a : EraseLabel) : labelPState (lbl a) = erasePState a := eraseNaming_labelPState hn a
  have hgo {e : Event} {u : State} {a b : EraseLabel} (hm : Moved e s u) (ha : Addressed i s e)
      (hab : erasePState a = erasePState b) : CommandStep i s (lbl a) (u.setLabel (lbl b)) := by
    have heq : labelPState (lbl a) = labelPState (lbl b) := by rw [hps, hps, hab]
    refine .within hm ha (.refl u) (hlbl a b) (fun h => ?_) (heq ▸ visibleMove_labelPState _)
    rw [hm.status, h, heq]
  have hstart (a : EraseLabel) : lbl a ≠ .start := (hlbl a a).ne_start
  cases l with
  | e1Rb1 => exact commandStep_readAddress _ _ _ (fun u hm => hgo hm addressed_write rfl) (hstart _)
  | e1Rb2 =>
    refine commandStep_readData _ _ _ (fun xs u hm _ _ => ?_) (hstart _)
    split
    · exact hret _ u _ false hm addressed_read (samePage_setBuf_setPState ..) (.inl ⟨rfl, rfl, rfl⟩)
    · refine .within hm addressed_read (samePage_setBuf_setPState ..) (hlbl _ _) (fun _ => ?_) ?_
      · rw [hps]; rfl
      · rw [hps, hps]; rfl
  | e2Wb1 => exact commandStep_memWrite _ _ _ _ (fun u hm => hgo hm addressed_write rfl) (hstart _)
  | e3 =>
    simp only [erasePageStep]
    split <;> exact hgo (busWait_moved .erase s) addressed_wait rfl
  | e4D1 =>
    simp only [erasePageStep]
    obtain ⟨-, h⟩ | ⟨u, ok, hm, h⟩ := errata_cases (lbl .e5Rb1) s <;> rw [h]
    · exact .hangs
    · exact hgo hm addressed_write rfl
  | e5Rb1 => exact commandStep_readAddress _ _ _ (fun u hm => hgo hm addressed_write rfl) (hstart _)
  | e5Rb2 =>
    refine commandStep_readData _ _ _ (fun xs u hm _ _ => ?_) (hstart _)
    split
    · exact hret _ u _ true hm addressed_read (samePage_setBuf_setPState ..) (.inr ⟨rfl, rfl, rfl⟩)
    · exact .raisesAfter (hstart _) hm addressed_read (samePage_setBuf ..) rfl (.page nofun rfl)

/-- A step of ProgramPage inside a command, if what its caller does with the answer is a step of that command. -/
theorem commandStep_programPageStep {lbl : PageLabel → Label} (hn : PageNaming lbl) (d : DeviceDescriptor)
    (sp : Space) (p : Page) (target : List Byte) {ret : Bool → Bool → State → State} {l : PageLabel}
    (hret : ∀ e u v prog erased, Moved e s u → Addressed i s e → SamePage u v → PageReturns l v →
      CommandStep i s (lbl l) (ret prog erased v)) :
    CommandStep i s (lbl l) (programPageStep d sp p target lbl ret l s) := by
  have hlbl (a b : PageLabel) : SameProcedure (lbl a) (lbl b) := pageNaming_sameProcedure hn a b
  have hps (a : PageLabel) : labelPState (lbl a) = pagePState a := pageNaming_labelPState hn a
  have hgo {e : Event} {u v : State} {a b : PageLabel} (hm : Moved e s u) (ha : Addressed i s e) (hv : SamePage u v)
      (hp : v.status.pstate = u.status.pstate) (hab : pagePState a = pagePState b) :
      CommandStep i s (lbl a) (v.setLabel (lbl b)) := by
    have heq : labelPState (lbl a) = labelPState (lbl b) := by rw [hps, hps, hab]
    refine .within hm ha hv (hlbl a b) (fun h => ?_) (heq ▸ visibleMove_labelPState _)
    rw [hp, hm.status, h, heq]
  have hstart (a : PageLabel) : lbl a ≠ .start := (hlbl a a).ne_start
  cases l with
  | p1Rb1 => exact commandStep_readAddress _ _ _ (fun u hm => hgo hm addressed_write (.refl u) rfl rfl) (hstart _)
  | p1Rb2 =>
    refine commandStep_readData _ _ _ (fun xs u hm _ _ => ?_) (hstart _)
    split
    · exact hret _ u _ false false hm addressed_read (samePage_setBuf_setPState ..) (.inl ⟨rfl, rfl⟩)
    · obtain ⟨-, h⟩ | ⟨-, h⟩ := enterErasePage_cases d sp p (fun e => lbl (.p2 e)) (u.setBuf xs) <;> rw [h]
      · exact hgo hm addressed_read (samePage_setBuf ..) rfl rfl
      · exact .raisesAfter (hstart _) hm addressed_read (samePage_setBuf ..) rfl (.page nofun rfl)
  | p2 e =>
    rw [programPageStep]
    refine commandStep_erasePageStep (pageNaming_p2 hn) d sp p fun ev u v erased hm ha hv hr => ?_
    have hvis : visibleMove (pagePState (.p2 e)) .programming = true := by
      obtain ⟨rfl, -⟩ | ⟨rfl, -⟩ := hr <;> rfl
    refine .within hm ha ?_ (hlbl _ _) (fun _ => ?_) ?_
    · obtain ⟨_, _, _, rfl⟩ := hv
      exact ⟨_, _, _, rfl⟩
    · rw [hps]; rfl
    · rw [hps, hps]; exact hvis
  | p3Wb1 => exact commandStep_memWrite _ _ _ _ (fun u hm => hgo hm addressed_write (.refl u) rfl rfl) (hstart _)
  | p4 => exact hgo (busWait_moved .program s) addressed_wait (.refl _) rfl rfl
  | p5Rb1 => exact commandStep_readAddress _ _ _ (fun u hm => hgo hm addressed_write (.refl u) rfl rfl) (hstart _)
  | p5Rb2 =>
    refine commandStep_readData _ _ _ (fun xs u hm _ _ => ?_) (hstart _)
    split
    · exact hret _ u _ true _ hm addressed_read (samePage_setBuf_setPState ..) (.inr ⟨rfl, rfl⟩)
    · exact .raisesAfter (hstart _) hm addressed_read (samePage_setBuf ..) rfl (.page nofun rfl)

/-- What a command's ProgramPages knows of its loop: the range, and that the loop may begin a page from label `l`. -/
structure InRange (i : Instr) (s : State) (l : Label) (d : DeviceDescriptor) (sp : Space) (a : Page) (np : Nat) :
    Prop where
  desc : s.desc? = some d
  range : programRange d i = some (sp, a, np)
  legal : legalLabel i l = true → legalLabel i (.pages .p1Rb1) = true
  visible : visibleMove (labelPState l) .check = true

/-- The loop of ProgramPages inside a command: it ends the command or begins a page of the range (R81). -/
theorem commandStep_pagesLoop {l : Label} {d : DeviceDescriptor} {sp : Space} {a : Page} {np : Nat}
    (hin : InRange i s l d sp a np) {o : Option Event} {v : State} (hst : Stage i s l v o) (hshown : Shown s l v)
    (hres : (l = .start → s.result = 0) → v.result = resultBitmaps v.locals.programmed v.locals.skipped)
    {k j : Nat} (hk : k = np - j) : CommandStep i s l (pagesLoop d sp a k j v) := by
  obtain ⟨n, hn, -, ⟨-, h⟩ | ⟨hlt, -, h⟩⟩ := pagesLoop_cases d sp a k j v <;> rw [h] <;>
    obtain ⟨hstatus, -, -, hprog, -, -, -, hbits, -⟩ := skipPages_spec a n j v
  · refine .finishes _ (hst.quiet (quiet_skipPages ..)) (fun hl => ?_) .nothing
    rw [hstatus]
    exact hshown hl
  · refine .beginsPage (hst.quiet ((quiet_skipPages ..).trans (quiet_setLocals ..))) ?_ hin.visible
    exact .pages hin.desc hin.range (by omega) rfl rfl hin.legal fun hr => hbits (hres hr)

/-- ProgramPages from its beginning, inside a command (R81). -/
theorem commandStep_enterProgramPages {d : DeviceDescriptor} {sp : Space} {a : Page} {np : Nat}
    (hin : InRange i s .start d sp a np) {v : State} (hq : Quiet s v) (hp : v.status.pstate = s.status.pstate)
    (hres : v.result = s.result) : CommandStep i s .start (enterProgramPages d sp a np v) := by
  obtain ⟨p, -, -, h⟩ | ⟨-, h⟩ := enterProgramPages_cases d sp a np v <;> rw [h]
  · exact .raises (.first rfl hq) (shown_of_eq hp) (.first nofun)
  · have hq' := hq.trans (quiet_setLocals { v.locals with skipped := 0, programmed := 0 } v)
    have hzero : (0 : Word) = resultBitmaps 0 0 := by decide
    exact commandStep_pagesLoop hin (.first rfl hq') (shown_of_eq hp) (fun hr => (hres.trans (hr rfl)).trans hzero) rfl

/-- After a page ProgramPages notes it in the bitmaps and enters its loop at the next page (R81, R82). -/
theorem afterPage_eq (d : DeviceDescriptor) (sp : Space) (a : Page) (np : Nat) (prog : Bool) (v : State) :
    ∃ w, Quiet v w ∧ w.status = v.status ∧ w.result = resultBitmaps w.locals.programmed w.locals.skipped ∧
      afterPage d sp a np prog v = pagesLoop d sp a (np - (v.locals.i.toNat + 1)) (v.locals.i.toNat + 1) w := by
  cases prog
  · exact ⟨writeBitmaps v, quiet_writeBitmaps v, rfl, rfl, rfl⟩
  · exact ⟨writeBitmaps (v.setLocals { v.locals with programmed := addBit v.locals.programmed v.locals.p }),
      ⟨_, _, _, _, _, rfl⟩, rfl, rfl, rfl⟩

/-- ProgramPages at a label, inside a command (R81). -/
theorem commandStep_programPagesStep (l : PageLabel) {d : DeviceDescriptor} {sp : Space} {a : Page} {np : Nat}
    (hd : s.desc? = some d) (hr : programRange d i = some (sp, a, np))
    (hleg : legalLabel i (.pages l) = true → legalLabel i (.pages .p1Rb1) = true) (target : List Byte) :
    CommandStep i s (.pages l) (programPagesStep d sp a np target l s) := by
  rw [programPagesStep]
  refine commandStep_programPageStep (lbl := .pages) (.inr rfl) d sp s.locals.p target
    fun e u v prog erased hm ha hv hret => ?_
  obtain ⟨w, hw, hst, hres, h⟩ := afterPage_eq d sp a np prog v
  rw [h]
  refine commandStep_pagesLoop ⟨hd, hr, hleg, ?_⟩ (.event nofun hm ha (hv.quiet.trans hw)) (fun _ => ?_) (fun _ => hres)
    rfl
  · obtain ⟨rfl, -⟩ | ⟨rfl, -⟩ := hret <;> rfl
  · rw [hst]
    obtain ⟨rfl, hp⟩ | ⟨rfl, hp⟩ := hret <;> rw [hp] <;> decide

end Procedures

/-! ### Every command's step -/

section Commands

variable {s t : State}

/-- An operand error of a command's first step. -/
theorem commandStep_firstError {i : Instr} {e : Error} (he : e.code ≠ .transportError) :
    CommandStep i s .start (raise e s) :=
  .raises (.first rfl (.refl s)) (shown_of_eq rfl) (.first he)

/-- A first step that goes on to the command's first transaction. -/
theorem commandStep_firstLabel {i : Instr} {v : State} (hv : Quiet s v) (hp : v.status.pstate = s.status.pstate)
    {l : Label} (hleg : legalLabel i l = true) (hl : l ≠ .start := by decide)
    (hraw : inPageProcedure l = false := by decide) : CommandStep i s .start (v.setLabel l) :=
  .goesOn (.first rfl hv) hp rfl hraw hl fun _ => hleg

/-- A first step that checks its operands: PreconditionError, or on to the first transaction (R101). -/
theorem commandStep_firstCheck {i : Instr} {bad : Bool} {l : Label} (hleg : bad = false → legalLabel i l = true)
    (hl : l ≠ .start := by decide) (hraw : inPageProcedure l = false := by decide) :
    CommandStep i s .start (if bad then raise .precondition s else s.setLabel l) := by
  cases bad
  · exact commandStep_firstLabel (.refl s) rfl (hleg rfl) hl hraw
  · exact commandStep_firstError nofun

/-- A first step that ends the command. -/
theorem commandStep_firstEnd {i : Instr} {w : State} (hw : Writes i s w) (r : Word) :
    CommandStep i s .start (finish r w) :=
  .finishes r (.first rfl (.refl s)) (shown_of_eq rfl) hw

/-- A step outside the page procedures that ends the command after one bus event. -/
theorem commandStep_eventEnd {i : Instr} {l : Label} {e : Event} {u v w : State}
    (hm : Moved e s u) (ha : Addressed i s e) (hv : Quiet u v) (hp : v.status.pstate = u.status.pstate)
    (hw : Writes i v w) (r : Word) (hl : l ≠ .start := by decide) : CommandStep i s l (finish r w) :=
  .finishes r (.event hl hm ha hv) (shown_of_eq (hp.trans (congrArg _ hm.status))) hw

/-- A step outside the page procedures that goes on after one bus event. -/
theorem commandStep_eventLabel {i : Instr} {l l' : Label} {e : Event} {u v : State}
    (hm : Moved e s u) (ha : Addressed i s e) (hv : Quiet u v) (hp : v.status.pstate = u.status.pstate)
    (hleg : legalLabel i l = true → legalLabel i l' = true) (hl : l ≠ .start := by decide)
    (hl' : l' ≠ .start := by decide) (hraw : inPageProcedure l = false := by decide)
    (hraw' : inPageProcedure l' = false := by decide) : CommandStep i s l (v.setLabel l') :=
  .goesOn (.event hl hm ha hv) (hp.trans (congrArg _ hm.status)) hraw hraw' hl' hleg

/-- A first step of ERASE_PAGE or PROGRAM_PAGE that finds its page read-only: BeginPage has shown CHECK (R76). -/
theorem commandStep_beginRaises {i : Instr} (sp : Space) (p : Page) :
    CommandStep i s .start (raise (.readOnlyPage p) (beginPage sp p s)) :=
  .raises (.first rfl (quiet_beginPage sp p s)) (fun _ => ⟨rfl, nofun⟩) (.first nofun)

/-- RB1 outside the page procedures (R70). -/
theorem commandStep_rb1 {i : Instr} (hleg : legalLabel i .rb1 = true → legalLabel i .rb2 = true) (sp : Space)
    (a : Byte) : CommandStep i s .rb1 (readAddress sp a .rb2 s) :=
  commandStep_readAddress _ _ _ fun u hm => commandStep_eventLabel hm addressed_write (.refl u) rfl hleg

theorem execReadBytes_cases {sp : Space} {a : Byte} {n : BitVec 9} (h : execReadBytes sp a n s = .next t) :
    ∃ l, s.pc = .resume l ∧ CommandStep (.readBytes sp a n) s l t := by
  unfold execReadBytes at h
  split at h <;> cases h <;> refine ⟨_, by assumption, ?_⟩
  · exact commandStep_firstCheck fun hok => by simp [legalLabel, hok]
  · exact commandStep_rb1 id _ _
  · exact commandStep_readData _ _ _ fun xs u hm hlen hn =>
      commandStep_eventEnd hm addressed_read (.refl u) rfl
        (.data xs (.inl ⟨sp, a, n, rfl⟩) (hlen ▸ hn)) _

theorem execWriteBytes_cases {sp : Space} {a : Byte} {n : BitVec 9} (h : execWriteBytes sp a n s = .next t) :
    ∃ l, s.pc = .resume l ∧ CommandStep (.writeBytes sp a n) s l t := by
  unfold execWriteBytes at h
  split at h <;> cases h <;> refine ⟨_, by assumption, ?_⟩
  · exact commandStep_firstCheck fun hok => by simpa [legalLabel] using hok
  · exact commandStep_memWrite _ _ _ _ fun u hm =>
      commandStep_eventEnd hm addressed_write (.refl u) rfl .nothing _

theorem execReadPage_cases {sp : Space} {p : Byte} (h : execReadPage sp p s = .next t) :
    ∃ l, s.pc = .resume l ∧ CommandStep (.readPage sp p) s l t := by
  unfold execReadPage at h
  split at h <;> cases h <;> refine ⟨_, by assumption, ?_⟩
  · exact commandStep_firstCheck fun hok => by simp [legalLabel, hok]
  · exact commandStep_rb1 id _ _
  · exact commandStep_readData _ _ _ fun xs u hm hlen hn =>
      commandStep_eventEnd hm addressed_read (.refl u) rfl
        (.data xs (.inr (.inl ⟨sp, p, rfl⟩)) (hlen ▸ hn)) _

theorem execIsPageWritable_cases {sp : Space} {p : Byte} (h : execIsPageWritable sp p s = .next t) :
    ∃ l, s.pc = .resume l ∧ CommandStep (.isPageWritable sp p) s l t := by
  unfold execIsPageWritable at h
  split at h
  · refine ⟨_, by assumption, ?_⟩
    split at h
    · cases h
      exact commandStep_firstError nofun
    · obtain ⟨d, -, rfl⟩ := withDesc_eq_next.1 h
      exact commandStep_firstEnd .nothing _
  · cases h

theorem execIsPageErased_cases {sp : Space} {p : Byte} (h : execIsPageErased sp p s = .next t) :
    ∃ l, s.pc = .resume l ∧ CommandStep (.isPageErased sp p) s l t := by
  unfold execIsPageErased at h
  split at h <;> cases h <;> refine ⟨_, by assumption, ?_⟩
  · exact commandStep_firstCheck fun hok => by simp [legalLabel, hok]
  · exact commandStep_rb1 id _ _
  · exact commandStep_readData _ _ _ fun xs u hm hlen hn =>
      commandStep_eventEnd hm addressed_read (.refl u) rfl .nothing _

theorem execErasePage_cases {sp : Space} {p : Byte} (h : execErasePage sp p s = .next t) :
    ∃ l, s.pc = .resume l ∧ CommandStep (.erasePage sp p) s l t := by
  unfold execErasePage at h
  split at h
  · refine ⟨_, by assumption, ?_⟩
    split at h
    · cases h
      exact commandStep_firstError nofun
    · rename_i hbad
      obtain ⟨d, -, rfl⟩ := withDesc_eq_next.1 h
      obtain ⟨-, he⟩ | ⟨-, he⟩ := enterErasePage_cases d sp (nibble p) .erase (beginPage sp (nibble p) s) <;> rw [he]
      · exact .beginsPage (.first rfl (.refl s)) (.erase rfl (by simpa using hbad)) rfl
      · exact commandStep_beginRaises sp _
  · rename_i l hl
    obtain ⟨d, -, rfl⟩ := withDesc_eq_next.1 h
    refine ⟨_, hl, commandStep_erasePageStep (lbl := .erase) (.inl rfl) d sp _ fun e u v erased hm ha hv hr => ?_⟩
    refine .finishes _ (.event nofun hm ha hv.quiet) (fun _ => ?_) .nothing
    obtain ⟨rfl, -, hp⟩ | ⟨rfl, -, hp⟩ := hr <;> rw [hp] <;> decide
  · cases h

theorem execProgramPage_cases {sp : Space} {p : Byte} (h : execProgramPage sp p s = .next t) :
    ∃ l, s.pc = .resume l ∧ CommandStep (.programPage sp p) s l t := by
  unfold execProgramPage at h
  split at h
  · refine ⟨_, by assumption, ?_⟩
    split at h
    · cases h
      exact commandStep_firstError nofun
    · rename_i hbad
      obtain ⟨d, -, rfl⟩ := withDesc_eq_next.1 h
      obtain ⟨-, he⟩ | ⟨-, he⟩ := enterProgramPage_cases d sp (nibble p) .page s <;> rw [he]
      · exact .beginsPage (.first rfl (.refl s)) (.page rfl (by simpa using hbad)) rfl
      · exact commandStep_beginRaises sp _
  · rename_i l hl
    obtain ⟨d, -, rfl⟩ := withDesc_eq_next.1 h
    refine ⟨_, hl, commandStep_programPageStep (lbl := .page) (.inl rfl) d sp _ _
      fun e u v prog erased hm ha hv hr => ?_⟩
    refine .finishes _ (.event nofun hm ha hv.quiet) (fun _ => ?_) .nothing
    obtain ⟨rfl, hp⟩ | ⟨rfl, hp⟩ := hr <;> rw [hp] <;> decide
  · cases h

theorem execProgramPages_cases {sp : Space} {a : Byte} {n : BitVec 9} (h : execProgramPages sp a n s = .next t) :
    ∃ l, s.pc = .resume l ∧ CommandStep (.programPages sp a n) s l t := by
  unfold execProgramPages at h
  split at h
  · refine ⟨_, by assumption, ?_⟩
    split at h
    · cases h
      exact commandStep_firstError nofun
    · rename_i hbad
      obtain ⟨d, hd, rfl⟩ := withDesc_eq_next.1 h
      exact commandStep_enterProgramPages ⟨hd, rfl, fun _ => by simpa [legalLabel] using hbad, rfl⟩ (.refl s) rfl rfl
  · rename_i l hl
    obtain ⟨d, hd, rfl⟩ := withDesc_eq_next.1 h
    exact ⟨_, hl, commandStep_programPagesStep l hd rfl id _⟩
  · cases h

theorem execResetDevice_cases (h : execResetDevice s = .next t) :
    ∃ l, s.pc = .resume l ∧ CommandStep .resetDevice s l t := by
  unfold execResetDevice at h
  split at h <;> cases h <;> refine ⟨_, by assumption, ?_⟩
  · exact commandStep_firstLabel (.refl s) rfl (by decide)
  · exact commandStep_memWrite _ _ _ _ fun u hm =>
      commandStep_eventLabel hm addressed_write (.refl u) rfl id
  · exact commandStep_eventEnd (busWait_moved .reset s) addressed_wait (.refl _) rfl .nothing _

/-- A scan's probe may go to any control code (R91, R92). -/
theorem addressed_probe {i : Instr} (hi : (∃ c, i = .scanDevice c) ∨ i = .scanDevices) (cc : ControlCode)
    {bytes : List Byte} {ok : Bool} : Addressed i s (.write (translate .register cc) bytes ok) := by
  rintro a7 ⟨⟩
  refine ⟨_, _, rfl, fun hc hs => ?_⟩
  obtain ⟨c, rfl⟩ | rfl := hi
  · exact absurd rfl (hc c)
  · exact absurd rfl hs

theorem execScanDevice_cases {c : Byte} (h : execScanDevice c s = .next t) :
    ∃ l, s.pc = .resume l ∧ CommandStep (.scanDevice c) s l t := by
  unfold execScanDevice at h
  split at h
  · cases h
    exact ⟨_, by assumption, commandStep_firstCheck fun hok => by simp [legalLabel, hok]⟩
  · refine ⟨_, by assumption, ?_⟩
    split at h <;> cases h
    · rename_i hw
      exact commandStep_eventEnd (busWrite_spec hw).1 (addressed_probe (.inl ⟨c, rfl⟩) _) (.refl _) rfl
        .nothing _
    · exact .hangs
  · cases h

theorem execScanDevices_cases (h : execScanDevices s = .next t) :
    ∃ l, s.pc = .resume l ∧ CommandStep .scanDevices s l t := by
  unfold execScanDevices at h
  split at h
  · cases h
    refine ⟨_, by assumption, ?_⟩
    exact commandStep_firstLabel (quiet_setLocals { s.locals with found := 0, c := 0 } s) rfl (by decide)
  · refine ⟨_, by assumption, ?_⟩
    split at h <;> cases h
    · rename_i ok u hw
      have hm := (busWrite_spec hw).1
      have ha : Addressed .scanDevices s (.write (translate .register s.locals.c) [] ok) :=
        addressed_probe (.inr rfl) _
      have hq := quiet_markFound ok u
      have hp : (markFound ok u).status.pstate = u.status.pstate := by cases ok <;> rfl
      obtain ⟨-, h⟩ | ⟨-, h⟩ := afterProbe_cases (markFound ok u) <;> rw [h]
      · exact commandStep_eventLabel hm ha (hq.trans (quiet_setLocals _ _)) hp id
      · refine commandStep_eventEnd hm ha hq hp (.data _ (.inr (.inr rfl)) ?_) _
        rw [List.length_map]
        exact (setBits_length_le _).trans (by decide)
    · exact .hangs
  · cases h

/-- A specification that parses has four characters (R93). -/
theorem length_of_parseSpec {xs : List Byte} {b : Byte} (h : parseSpec xs = some b) : xs.length = 4 := by
  unfold parseSpec at h
  split at h
  · cases h
  · simp_all

theorem execProgramControlCode_cases {n : BitVec 9} (h : execProgramControlCode n s = .next t) :
    ∃ l, s.pc = .resume l ∧ CommandStep (.programControlCode n) s l t := by
  unfold execProgramControlCode at h
  split at h
  · refine ⟨_, by assumption, ?_⟩
    split at h
    · cases h
      exact commandStep_firstError nofun
    · rename_i b hb
      obtain ⟨d, hd, rfl⟩ := withDesc_eq_next.1 h
      have hn : n = 4#9 := BitVec.eq_of_toNat_eq (by simpa using length_of_parseSpec hb)
      exact commandStep_enterProgramPages ⟨hd, rfl, fun _ => by simp [legalLabel, hn], rfl⟩
        (quiet_setLocals { s.locals with img := controlCodePage d b } s) rfl rfl
  · rename_i l hl
    obtain ⟨d, hd, rfl⟩ := withDesc_eq_next.1 h
    exact ⟨_, hl, commandStep_programPagesStep l hd rfl id _⟩
  · cases h

theorem execSetControlCode_cases {c : Byte} (h : execSetControlCode c s = .next t) :
    ∃ l, s.pc = .resume l ∧ CommandStep (.setControlCode c) s l t := by
  unfold execSetControlCode at h
  split at h <;> cases h
  refine ⟨_, by assumption, ?_⟩
  split
  · exact commandStep_firstError nofun
  · exact commandStep_firstEnd (.cc c rfl) _

theorem execSetDevice_cases {n : BitVec 9} (h : execSetDevice n s = .next t) :
    ∃ l, s.pc = .resume l ∧ CommandStep (.setDevice n) s l t := by
  unfold execSetDevice at h
  split at h <;> cases h
  refine ⟨_, by assumption, ?_⟩
  split
  · exact commandStep_firstError nofun
  · split
    · rename_i k hk
      obtain ⟨hlt, -⟩ := List.findIdx?_eq_some_iff_getElem.1 hk
      exact commandStep_firstEnd (.devsel n rfl hlt) _
    · exact commandStep_firstError nofun

theorem execTranslate_cases {sp : Space} {c : Byte} (h : execTranslate sp c s = .next t) :
    ∃ l, s.pc = .resume l ∧ CommandStep (.translate sp c) s l t := by
  unfold execTranslate at h
  split at h <;> cases h
  refine ⟨_, by assumption, ?_⟩
  split
  · exact commandStep_firstError nofun
  · exact commandStep_firstEnd .nothing _

theorem execIllegal_cases {w : Word} (h : execIllegal w s = .next t) :
    ∃ l, s.pc = .resume l ∧ CommandStep (.illegal w) s l t := by
  unfold execIllegal at h
  split at h <;> cases h
  exact ⟨_, by assumption, commandStep_firstError nofun⟩

/-- Everything a step of any command can do (R32, R34). -/
theorem exec_cases {i : Instr} (h : exec i s = .next t) : ∃ l, s.pc = .resume l ∧ CommandStep i s l t := by
  cases i with
  | readBytes sp a n => exact execReadBytes_cases h
  | writeBytes sp a n => exact execWriteBytes_cases h
  | readPage sp p => exact execReadPage_cases h
  | isPageWritable sp p => exact execIsPageWritable_cases h
  | isPageErased sp p => exact execIsPageErased_cases h
  | erasePage sp p => exact execErasePage_cases h
  | programPage sp p => exact execProgramPage_cases h
  | programPages sp a n => exact execProgramPages_cases h
  | resetDevice => exact execResetDevice_cases h
  | scanDevice c => exact execScanDevice_cases h
  | scanDevices => exact execScanDevices_cases h
  | programControlCode n => exact execProgramControlCode_cases h
  | setControlCode c => exact execSetControlCode_cases h
  | setDevice n => exact execSetDevice_cases h
  | translate sp c => exact execTranslate_cases h
  | illegal w => exact execIllegal_cases h

end Commands

/-! ### What every step of a command shares -/

section StepFacts

variable {i : Instr} {s t v : State} {l : Label} {o : Option Event}

/-- Before its end a step has moved PSTATE, PPAGE, PSPACE, RESULT, the locals, the trace and the transport's answers,
and nothing else. -/
theorem Stage.eq (h : Stage i s l v o) : ∃ ps pp sp r k ws rs n,
    v = { s with
      status := { s.status with pstate := ps, ppage := pp, pspace := sp }, result := r, locals := k,
      trace := s.trace ++ o.toList, writeAnswers := ws, readAnswers := rs, answerDraws := n } := by
  cases h with
  | first _ hq =>
    obtain ⟨_, _, _, _, _, rfl⟩ := hq
    exact ⟨_, _, _, _, _, _, _, _, by rw [Option.toList_none, List.append_nil]⟩
  | event _ hm _ hq =>
    obtain ⟨_, _, _, rfl⟩ := hm
    obtain ⟨_, _, _, _, _, rfl⟩ := hq
    exact ⟨_, _, _, _, _, _, _, _, rfl⟩

theorem Stage.trace (h : Stage i s l v o) : v.trace = s.trace ++ o.toList := by
  obtain ⟨_, _, _, _, _, _, _, _, rfl⟩ := h.eq
  rfl

theorem Stage.err (h : Stage i s l v o) : v.status.err = s.status.err := by
  obtain ⟨_, _, _, _, _, _, _, _, rfl⟩ := h.eq
  rfl

theorem Stage.status (h : Stage i s l v o) : v.status.busy = s.status.busy ∧ v.status.done = s.status.done ∧
    v.status.err = s.status.err := by
  refine ⟨?_, ?_, h.err⟩ <;> obtain ⟨_, _, _, _, _, _, _, _, rfl⟩ := h.eq <;> rfl

/-- A step does nothing, or comes to its end through the writes of its command and then silent work. -/
theorem CommandStep.silent (h : CommandStep i s l t) :
    t = s ∨ ∃ o v w, Stage i s l v o ∧ Writes i v w ∧ Silent w t := by
  cases h with
  | hangs => exact .inl rfl
  | goesOn hst => exact .inr ⟨_, _, _, hst, .nothing, silent_setLabel _ _⟩
  | within hm ha hv hll => exact .inr ⟨_, _, _, .event hll.ne_start hm ha hv.quiet, .nothing, silent_setLabel _ _⟩
  | beginsPage hst => exact .inr ⟨_, _, _, hst, .nothing, (silent_beginPage _ _ _).trans (silent_setLabel _ _)⟩
  | finishes r hst _ hw => exact .inr ⟨_, _, _, hst, hw, silent_finish _ _⟩
  | raises hst => exact .inr ⟨_, _, _, hst, .nothing, silent_raise _ _⟩

theorem Writes.trace {w : State} (h : Writes i v w) : w.trace = v.trace := by cases h <;> rfl

/-- A step records no event, or one at an address its command may use, and then it is no first step. -/
theorem CommandStep.trace (h : CommandStep i s l t) :
    t.trace = s.trace ∨ ∃ e, l ≠ .start ∧ Addressed i s e ∧ t.trace = s.trace ++ [e] := by
  obtain rfl | ⟨o, v, w, hst, hw, ht⟩ := h.silent
  · exact .inl rfl
  · have htrace := (ht.trace.trans hw.trace).trans hst.trace
    cases hst with
    | first => exact .inl (htrace.trans (List.append_nil _))
    | event hl _ ha => exact .inr ⟨_, hl, ha, htrace⟩

/-- A step keeps STATUS.ERR or raises an error. -/
theorem CommandStep.err (h : CommandStep i s l t) :
    t.status.err = s.status.err ∨
    ∃ o v e, Stage i s l v o ∧ Shown s l v ∧ Justified o e ∧ t = raise e v := by
  cases h with
  | hangs => exact .inl rfl
  | goesOn hst => exact .inl hst.err
  | within hm ha hv hll => exact .inl (Stage.event hll.ne_start hm ha hv.quiet).err
  | beginsPage hst => exact .inl hst.err
  | finishes r hst _ hw =>
    refine .inl (Eq.trans ?_ hst.err)
    cases hw <;> rfl
  | raises hst hs hj => exact .inr ⟨_, _, _, hst, hs, hj, rfl⟩

end StepFacts

theorem Error.code_ne_none (e : Error) : e.code ≠ .none := by cases e <;> nofun

/-- The PSTATE an error leaves is one that R83 allows where the one before it was (R83, R99). -/
theorem visibleMove_raised : ∀ p q : PState, visibleMove p q = true →
    visibleMove p (if q = .none then .none else .failed) = true := by
  intro p q
  cases p <;> cases q <;> decide

/-! ### The host's accesses, offset by offset -/

section HostAccess

variable {s : State} {off : Nat} {w : Word}

theorem hostWrite_cmdreg (w : Word) (s : State) :
    hostWrite 0 w s = .next (if s.status.busy then overrun s else accept w s) := rfl

theorem hostWrite_data (h4 : off % 4 = 0) (h : 0x100 ≤ off) (hl : off < 512) :
    hostWrite off w s =
      .next (if s.status.busy then overrun s else s.setData (s.data.writeList (off - 0x100) (wordBytes w))) := by
  simp only [hostWrite, windowWord_data h4 h hl]

/-- Between CMDREG and DATA the window holds five registers and then reserved words (R18). -/
theorem offset_cases (h4 : off % 4 = 0) (h0 : 0 < off) :
    off = 0x004 ∨ off = 0x008 ∨ off = 0x00C ∨ off = 0x010 ∨ off = 0x014 ∨ 0x018 ≤ off := by omega

/-- A host write between CMDREG and DATA changes nothing (R21, R26). -/
theorem hostWrite_elsewhere (h4 : off % 4 = 0) (h0 : 0 < off) (hl : off < 0x100) : hostWrite off w s = .next s := by
  obtain rfl | rfl | rfl | rfl | rfl | h := offset_cases h4 h0
  · rfl
  · rfl
  · rfl
  · rfl
  · rfl
  · simp only [hostWrite, windowWord_reserved h4 h hl]

theorem hostWrite_refused (h : off % 4 ≠ 0 ∨ 512 ≤ off) : hostWrite off w s = .refused (.badHostAccess off) := by
  simp only [hostWrite, windowWord_eq_none.2 h]

theorem hostReadMove_refused (h : off % 4 ≠ 0 ∨ 512 ≤ off) : hostReadMove off s = .refused (.badHostAccess off) := by
  simp only [hostReadMove, windowWord_eq_none.2 h]

/-- What the host reads at an offset below DATA (R18). -/
def registerWord (s : State) (off : Nat) : Word :=
  if off = 0x000 then s.cmdreg
  else if off = 0x004 then s.status.word
  else if off = 0x008 then s.result
  else if off = 0x00C then s.cc.setWidth 32
  else if off = 0x010 then s.devsel.setWidth 32
  else if off = 0x014 then s.errinfo.word
  else 0

theorem registerWord_reserved (h : 0x018 ≤ off) : registerWord s off = 0 := by
  simp only [registerWord]
  repeat rw [if_neg (by omega)]

theorem hostReadMove_register (h4 : off % 4 = 0) (hl : off < 0x100) :
    hostReadMove off s = .next (s.setHostRead (registerWord s off)) := by
  obtain rfl | h0 := Nat.eq_zero_or_pos off
  · rfl
  · obtain rfl | rfl | rfl | rfl | rfl | h := offset_cases h4 h0
    · rfl
    · rfl
    · rfl
    · rfl
    · rfl
    · simp only [hostReadMove, windowWord_reserved h4 h hl, registerWord_reserved h]

/-- The bytes of the word of DATA[index .. index + 4) (R19, R25). -/
theorem extract_dataWord (s : State) (index : Nat) :
    ∀ k < 4, (dataWord s index).extractLsb' (8 * k) 8 = s.data.read (index + k) := by
  intro k hk
  rw [dataWord, extract_bytesWord _ _ _ _ k hk]
  interval_cases k <;> rfl

/-- A read of DATA moves what the host has read and the count of free bytes; while BUSY = 0 it returns the bytes of its
word and leaves the count (R25). -/
theorem hostReadMove_data (h4 : off % 4 = 0) (h : 0x100 ≤ off) (hl : off < 512) :
    ∃ w n, hostReadMove off s = .next { s with hostRead := w, draws := n } ∧
      (s.status.busy = false → n = s.draws ∧ ∀ k < 4, w.extractLsb' (8 * k) 8 = s.data.read (off - 0x100 + k)) := by
  simp only [hostReadMove, windowWord_data h4 h hl]
  split
  · rename_i hb
    exact ⟨_, _, rfl, fun hidle => absurd (hb.symm.trans hidle) nofun⟩
  · exact ⟨_, _, rfl, fun _ => ⟨rfl, extract_dataWord s _⟩⟩

/-- The bytes of a host word (R19). -/
theorem getD_wordBytes (w : Word) {k : Nat} (hk : k < 4) : (wordBytes w).getD k 0 = w.extractLsb' (8 * k) 8 := by
  interval_cases k <;> rfl

/-- A line of a script waits for BUSY = 0: the turn is the sequencer's, and the line stays first (R66). -/
theorem step_waits {m : HostMove} {rest : List Turn} (hs : s.schedule = .host m :: rest) (hw : m.waits = true)
    (hb : s.status.busy = true) : step s = sequencerStep s := by
  simp [step, takeTurn, hs, hw, hb]

theorem step_noTurns (hs : s.schedule = []) : step s = sequencerStep s := by
  simp [step, takeTurn, hs]

theorem step_sequencerTurn {rest : List Turn} (hs : s.schedule = .sequencer :: rest) :
    step s = sequencerStep { s with schedule := rest } := by
  simp [step, takeTurn, hs]

theorem sequencerStep_resume {l : Label} (hl : s.pc = .resume l) : sequencerStep s = exec (decodeWord s.cmdreg) s := by
  simp only [sequencerStep, hl, State.command]

end HostAccess

end Sys2Proof.Machine

namespace Sys2Proof.Safety

open Sys2Proof.Machine

/-! ### The invariant, kept by a step of a command -/

section Keeps

variable {s t v : State} {l l' : Label} {o : Option Event}

/-- An idle block is sound when its table, DEVSEL and DATA are. -/
theorem sound_of_idle (hp : t.params.wf) (hd : t.devsel.toNat < t.params.descriptors.length) (hm : t.data.wf)
    (hpc : t.pc = .idle) (hb : t.status.busy = false) : Sound t where
  params_wf := hp
  devsel_lt := hd
  data_wf := hm
  idle_iff := by simp [hpc, hb]
  busy_clear := by simp [hb]
  label_legal := by simp [hpc]
  pstate_label := by simp [hpc]
  page_named := by simp [hpc]
  page_in_range := by simp [hpc]
  start_result := by simp [hpc]
  pages_result := by simp [hpc]

/-- A step that goes on at a label past the first keeps the invariant if the label is legal, PSTATE is the label's, and
inside a page procedure the page is named, in range, and RESULT holds the bitmaps. -/
theorem Sound.goesOn (hi : Sound s) (hl : s.pc = .resume l) (hst : Stage s.command s l v o) (hne : l' ≠ .start)
    (hleg : legalLabel s.command l' = true) (hp : v.status.pstate = labelPState l')
    (hnamed : inPageProcedure l' = true →
      ∃ j, pageJob v = some j ∧ v.status.ppage = j.page ∧ v.status.pspace = j.space)
    (hpages : ∀ x, l' = .pages x →
      (∃ r, pageRange v = some r ∧ v.locals.i.toNat < r.2 ∧ v.locals.p.toNat = r.1 + v.locals.i.toNat) ∧
      v.result = resultBitmaps v.locals.programmed v.locals.skipped) :
    Sound (v.setLabel l') := by
  have hbusy := hi.busy hl
  obtain ⟨_, _, _, _, _, _, _, _, rfl⟩ := hst.eq
  exact {
    params_wf := hi.params_wf
    devsel_lt := hi.devsel_lt
    data_wf := hi.data_wf
    idle_iff := by simp [hbusy]
    busy_clear := hi.busy_clear
    label_legal := by rintro _ ⟨⟩; exact hleg
    pstate_label := by rintro _ ⟨⟩; exact hp
    page_named := by rintro _ ⟨⟩; exact hnamed
    page_in_range := by rintro x ⟨⟩; exact (hpages x rfl).1
    start_result := by rintro ⟨⟩; exact absurd rfl hne
    pages_result := by rintro x ⟨⟩; exact (hpages x rfl).2 }

/-- At a legal label of ProgramPages a command's range lies within the sixteen pages, and its page job is for the page
in the locals (R81, R89, R94). -/
theorem pageRange_of_programRange {d : DeviceDescriptor} {sp : Space} {a : Page} {np : Nat} {x : PageLabel}
    (hd : s.desc? = some d) (hr : programRange d s.command = some (sp, a, np))
    (hleg : legalLabel s.command (.pages x) = true) :
    pageRange s = some (a.toNat, np) ∧ a.toNat + np ≤ 16 ∧ ∃ target, pageJob s = some ⟨sp, s.locals.p, target⟩ := by
  unfold pageRange pageJob
  unfold programRange at hr
  split at hr <;> simp only [Option.some.injEq, Prod.mk.injEq, reduceCtorEq] at hr <;> rename_i hc <;>
    obtain ⟨rfl, rfl, rfl⟩ := hr <;> rw [hc] at hleg ⊢
  · rename_i sp a n
    have hbad : ¬badPages sp a n = true := by simpa [legalLabel] using hleg
    rw [badPages_iff] at hbad
    have ha : (nibble a).toNat = a.toNat := nibble_toNat (by omega)
    exact ⟨by rw [ha], by omega, _, rfl⟩
  · have ha : (controlCodePageIndex d).toNat = d.controlCodeAddress.toNat / 16 := by
      have := d.controlCodeAddress.isLt
      simp only [controlCodePageIndex, BitVec.toNat_setWidth, BitVec.toNat_ushiftRight, Nat.shiftRight_eq_div_pow]
      omega
    have hlt := (controlCodePageIndex d).isLt
    exact ⟨by simp [hd, ha], by omega, _, rfl⟩

/-- A command that stands legally at one label of a page procedure does at every other (R32). -/
theorem legalLabel_of_sameProcedure (i : Instr) (h : SameProcedure l l') : legalLabel i l' = legalLabel i l := by
  cases h <;> cases i <;> rfl

/-- Inside one page procedure the invariant is kept: the page job, its name and its range stay (R76, R81). -/
theorem Sound.within {e : Event} {u : State} (hi : Sound s) (hl : s.pc = .resume l) (hm : Moved e s u)
    (ha : Addressed s.command s e) (hv : SamePage u v) (hll : SameProcedure l l')
    (hp : v.status.pstate = labelPState l') : Sound (v.setLabel l') := by
  have hst : Stage s.command s l v (some e) := .event hll.ne_start hm ha hv.quiet
  obtain ⟨_, _, _, rfl⟩ := hm
  obtain ⟨_, _, _, rfl⟩ := hv
  have hlegal := (legalLabel_of_sameProcedure s.command hll).trans (hi.label_legal l hl)
  have hnamed := hi.page_named l hl
  cases hll with
  | erase a b => exact hi.goesOn hl hst nofun hlegal hp hnamed nofun
  | page a b => exact hi.goesOn hl hst nofun hlegal hp hnamed nofun
  | pages a b =>
    exact hi.goesOn hl hst nofun hlegal hp hnamed fun _ _ => ⟨hi.page_in_range a hl, hi.pages_result a hl⟩

/-- Beginning a page keeps the invariant: BeginPage names the page, which is one of the command's (R76, R81). -/
theorem Sound.beginsPage {sp : Space} {p : Page} (hi : Sound s) (hl : s.pc = .resume l)
    (hst : Stage s.command s l v o) (hb : Begins s.command s l v sp p l') :
    Sound ((beginPage sp p v).setLabel l') := by
  have hst' := hst.quiet (quiet_beginPage sp p v)
  have hcmd : (beginPage sp p v).command = s.command := by
    obtain ⟨_, _, _, _, _, _, _, _, rfl⟩ := hst.eq
    rfl
  cases hb with
  | erase hc hbad =>
    refine hi.goesOn hl hst' nofun (by simp [hc, legalLabel, hbad]) rfl (fun _ => ?_) nofun
    exact ⟨_, by rw [pageJob, hcmd, hc], rfl, rfl⟩
  | page hc hbad =>
    refine hi.goesOn hl hst' nofun (by simp [hc, legalLabel, hbad]) rfl (fun _ => ?_) nofun
    exact ⟨_, by rw [pageJob, hcmd, hc], rfl, rfl⟩
  | @pages d _ a np j hd hr hj hvi hvp hleg hres =>
    have hlegal := hleg (hi.label_legal l hl)
    have hdesc : (beginPage sp (a + BitVec.ofNat 4 j) v).desc? = some d := by
      obtain ⟨_, _, _, _, _, _, _, _, rfl⟩ := hst.eq
      exact hd
    obtain ⟨hrange, hle, target, hjob⟩ :=
      pageRange_of_programRange hdesc (hcmd.symm ▸ hr) (x := .p1Rb1) (hcmd.symm ▸ hlegal)
    refine hi.goesOn hl hst' nofun hlegal rfl (fun _ => ⟨_, hjob, hvp.symm, rfl⟩) fun _ _ => ⟨⟨_, hrange, ?_⟩, ?_⟩
    · simp only [beginPage_locals, hvi, hvp, BitVec.toNat_add, BitVec.toNat_ofNat]
      omega
    · exact hres fun h => hi.start_result (h ▸ hl)

/-- A command that finishes leaves a sound block: what it writes to DEVSEL is an index of the table, and DATA keeps its
canonical form (R98). -/
theorem Sound.finishes {w : State} (hi : Sound s) (hst : Stage s.command s l v o) (hw : Writes s.command v w)
    (r : Word) : Sound (finish r w) := by
  obtain ⟨_, _, _, _, _, _, _, _, rfl⟩ := hst.eq
  cases hw with
  | nothing => exact sound_of_idle hi.params_wf hi.devsel_lt hi.data_wf rfl rfl
  | cc c hc => exact sound_of_idle hi.params_wf hi.devsel_lt hi.data_wf rfl rfl
  | @devsel n k hc hk =>
    refine sound_of_idle hi.params_wf ?_ hi.data_wf rfl rfl
    obtain ⟨-, hlen, -⟩ := hi.params_wf
    have hk' : k < s.params.descriptors.length := hk
    simp only [finish_devsel, State.setDevsel_devsel, finish_params, State.setDevsel_params, BitVec.toNat_ofNat]
    omega
  | data xs hc hlen =>
    exact sound_of_idle hi.params_wf hi.devsel_lt (Memory.wf_writeList hi.data_wf (by omega)) rfl rfl

/-- A step of the command in CMDREG keeps the invariant. -/
theorem Sound.of_commandStep (hi : Sound s) (hl : s.pc = .resume l) (h : CommandStep s.command s l t) : Sound t := by
  cases h with
  | hangs => exact hi
  | goesOn hst hkeep hraw hraw' hne hleg =>
    have hp := (hkeep.trans (hi.pstate_label l hl)).trans
      ((labelPState_of_not_inPageProcedure hraw).trans (labelPState_of_not_inPageProcedure hraw').symm)
    refine hi.goesOn hl hst hne (hleg (hi.label_legal l hl)) hp (fun h => ?_) fun x hx => ?_
    · simp [hraw'] at h
    · simp [hx, inPageProcedure] at hraw'
  | within hm ha hv hll hp => exact hi.within hl hm ha hv hll (hp (hi.pstate_label l hl))
  | beginsPage hst hb => exact hi.beginsPage hl hst hb
  | finishes r hst _ hw => exact hi.finishes hst hw r
  | raises hst =>
    obtain ⟨_, _, _, _, _, _, _, _, rfl⟩ := hst.eq
    exact sound_of_idle hi.params_wf hi.devsel_lt hi.data_wf rfl rfl

/-! ### The invariant, kept by a host move -/

/-- The invariant does not depend on OVERRUN, on what the host has read, on the count of free bytes, or on the turns. -/
theorem Sound.hostSide (hi : Sound s) (ov : Bool) (n : Nat) (w : Word) (sch : List Turn) :
    Sound { s with status := { s.status with overrun := ov }, draws := n, hostRead := w, schedule := sch } :=
  ⟨hi.params_wf, hi.devsel_lt, hi.data_wf, hi.idle_iff, hi.busy_clear, hi.label_legal, hi.pstate_label, hi.page_named,
    hi.page_in_range, hi.start_result, hi.pages_result⟩

/-- An accepted command stands soundly at its first step (R97). -/
theorem Sound.accept (hi : Sound s) (w : Word) : Sound (accept w s) where
  params_wf := hi.params_wf
  devsel_lt := hi.devsel_lt
  data_wf := hi.data_wf
  idle_iff := by simp [acceptedStatus]
  busy_clear := fun _ => ⟨rfl, rfl, rfl⟩
  label_legal := by rintro _ ⟨⟩; simp only [legalLabel]
  pstate_label := by rintro _ ⟨⟩; rfl
  page_named := by rintro _ ⟨⟩; nofun
  page_in_range := nofun
  start_result := fun _ => rfl
  pages_result := nofun

/-- DATA may be written while the block is idle (R25, R66). -/
theorem Sound.setData (hi : Sound s) (hb : s.status.busy = false) {m : Memory} (hm : m.wf) : Sound (s.setData m) :=
  sound_of_idle hi.params_wf hi.devsel_lt hm (hi.idle_iff.2 hb) hb

theorem Sound.of_hostWrite (hi : Sound s) {off : Nat} {w : Word} (h : hostWrite off w s = .next t) : Sound t := by
  obtain rfl | ⟨-, rfl⟩ | ⟨-, -, rfl⟩ | ⟨k, hb, hk, rfl⟩ := hostWrite_cases h
  · exact hi
  · exact hi.hostSide true s.draws s.hostRead s.schedule
  · exact hi.accept w
  · obtain ⟨-, -, hle⟩ := windowWord_eq_data hk
    exact hi.setData hb (Memory.wf_writeList hi.data_wf (by simpa using hle))

/-- A host move from a sound state ends in a sound state; a line of a script is run only while BUSY = 0. -/
theorem Sound.of_hostMove (hi : Sound s) {m : HostMove} (hw : (m.waits && s.status.busy) = false)
    (h : hostMove m s = .next t) : Sound t := by
  cases m with
  | write off w => exact hi.of_hostWrite h
  | read off =>
    obtain ⟨r, n, rfl⟩ := hostReadMove_spec h
    exact hi.hostSide s.status.overrun n r s.schedule
  | reset d cc =>
    obtain ⟨hlt, _, _, -, -, rfl⟩ := controllerReset_spec h
    have hm := freeData_wf s.draws
    generalize freeData s.draws = m at hm ⊢
    exact sound_of_idle hi.params_wf hlt hm rfl rfl
  | directive index bytes =>
    simp only [hostMove, directive] at h
    split at h <;> cases h
    rename_i hle
    exact hi.setData hw (Memory.wf_writeList hi.data_wf hle)
  | command w =>
    cases h
    exact hi.accept w

/-- A step of the sequencer from a sound state ends in a sound state. -/
theorem Sound.of_sequencerStep (hi : Sound s) (h : sequencerStep s = .next t) : Sound t := by
  unfold sequencerStep at h
  split at h
  · cases h
    exact hi
  · obtain ⟨l, hl, hstep⟩ := exec_cases h
    exact hi.of_commandStep hl hstep

theorem Sound.of_step (hi : Sound s) (h : step s = .next t) : Sound t := by
  obtain ⟨sch, he⟩ | ⟨m, rest, -, hw, he⟩ := step_cases s <;> rw [he] at h
  · exact (hi.hostSide _ _ _ sch).of_sequencerStep h
  · exact (hi.hostSide _ _ _ rest).of_hostMove hw h

end Keeps

/-! ### No run ends in a fault -/

section NoFault

variable {i : Instr} {s : State} {l : Label} {d : DeviceDescriptor} {f : Fault}

/-- A first step has a meaning in every command. -/
theorem exec_start_ne_fault (hd : s.desc? = some d) (hl : s.pc = .resume .start) : exec i s ≠ .fault f := by
  cases i <;>
  simp only [exec, execReadBytes, execWriteBytes, execReadPage, execIsPageWritable, execIsPageErased, execErasePage,
    execProgramPage, execProgramPages, execResetDevice, execScanDevice, execScanDevices, execProgramControlCode,
    execSetControlCode, execSetDevice, execTranslate, execIllegal, hl, withDesc_of_some hd] <;>
  (repeat' split) <;> nofun

/-- A step has a meaning at every legal label of its command. -/
theorem exec_ne_fault (hd : s.desc? = some d) (hl : s.pc = .resume l) (hleg : legalLabel i l = true) :
    exec i s ≠ .fault f := by
  unfold legalLabel at hleg
  split at hleg
  case h_1 => exact exec_start_ne_fault hd hl
  case h_17 => cases hleg
  all_goals
    simp only [exec, execReadBytes, execWriteBytes, execReadPage, execIsPageErased, execErasePage, execProgramPage,
      execProgramPages, execResetDevice, execScanDevice, execScanDevices, execProgramControlCode, hl,
      withDesc_of_some hd]
    (repeat' split) <;> nofun

theorem Sound.sequencerStep_ne_fault (hi : Sound s) : sequencerStep s ≠ .fault f := by
  obtain ⟨d, hd, -⟩ := State.desc_isSome hi.devsel_lt
  unfold sequencerStep
  split
  · nofun
  · rename_i l hl
    exact exec_ne_fault hd hl (hi.label_legal l hl)

/-- A host move is performed or refused by name; none is a fault (R19, R66, R115). -/
theorem hostMove_ne_fault (m : HostMove) : hostMove m s ≠ .fault f := by
  cases m <;> simp only [hostMove, hostWrite, hostReadMove, controllerReset, directive] <;> (repeat' split) <;> nofun

theorem Sound.step_ne_fault (hi : Sound s) : step s ≠ .fault f := by
  obtain ⟨sch, he⟩ | ⟨m, rest, -, -, he⟩ := step_cases s <;> rw [he]
  · exact (hi.hostSide _ _ _ sch).sequencerStep_ne_fault
  · exact hostMove_ne_fault m

end NoFault

end Sys2Proof.Safety

namespace Sys2Proof.Proofs

open Sys2Proof.Machine Sys2Proof.Safety

/-- Settles O59: a step is a host move or a step of the command in CMDREG, and both keep the invariant. -/
theorem stepKeepsSoundness : Obligations.StepKeepsSoundness := fun _ _ hi h => hi.of_step h

/-- Settles O60, by induction on the number of steps. -/
theorem soundRunsNeverFault : Obligations.SoundRunsNeverFault := by
  intro s hi n f
  induction n generalizing s with
  | zero => nofun
  | succ n ih =>
    rw [steps]
    cases h : step s with
    | next t => exact ih t (hi.of_step h)
    | fault f' => exact absurd h hi.step_ne_fault
    | refused r => nofun

/-- Settles O7: an idle block accepts the word; a busy one takes OVERRUN from a write, and a read only moves what the
host has read. -/
theorem acceptanceStartsTheCommand : Obligations.AcceptanceStartsTheCommand := by
  refine ⟨fun w s rest hs hb => ?_, fun m s rest hs hb hm => ⟨fun t hw h => ?_, fun hw => step_waits hs hw hb⟩⟩
  · rw [step_host hs rfl]
    simp only [hostMove, hostWrite_cmdreg, hb, Bool.false_eq_true, if_false]
    exact ⟨_, _, rfl⟩
  · rw [step_host hs (by rw [hw]; rfl)] at h
    cases m with
    | write off w =>
      obtain rfl | ⟨-, rfl⟩ | ⟨hidle, -⟩ | ⟨k, hidle, -⟩ := hostWrite_cases h
      · exact ⟨_, _, _, rfl⟩
      · exact ⟨_, _, _, rfl⟩
      · exact absurd (hb.symm.trans hidle) nofun
      · exact absurd (hb.symm.trans hidle) nofun
    | read off =>
      obtain ⟨r, n, rfl⟩ := hostReadMove_spec h
      exact ⟨_, _, _, rfl⟩
    | reset d cc => exact absurd rfl (hm d cc)
    | directive index bytes => cases hw
    | command w => cases hw

/-- Settles O12: a step records the one event of its primitive, and only a first step raises an operand error. -/
theorem earlyErrorsTouchNoBus : Obligations.EarlyErrorsTouchNoBus := by
  intro i s t h
  obtain ⟨l, hl, hstep⟩ := exec_cases h
  refine ⟨?_, fun hstart => ?_, fun hnone herr => ?_⟩
  · exact hstep.trace.imp_right fun ⟨e, _, _, he⟩ => ⟨e, he⟩
  · obtain rfl : l = .start := by simpa using hl.symm.trans hstart
    obtain h | ⟨e, hne, -⟩ := hstep.trace
    · exact h
    · exact absurd rfl hne
  · obtain h | ⟨o, v, e, hst, -, hj, rfl⟩ := hstep.err
    · rw [h, hnone] at herr
      cases herr
    · cases hst with
      | first hstart => rw [hl, hstart]
      | event =>
        cases hj with
        | page _ hfirst => cases hfirst.symm.trans herr
        | _ => cases herr

/-- Settles O13: a TransportError is raised on the answer of the step's one event. -/
theorem transportErrorNamesTheTransaction : Obligations.TransportErrorNamesTheTransaction := by
  intro s t hi _ h herr
  obtain ⟨l, hl, hstep⟩ := exec_cases h
  obtain ⟨-, hnone, -⟩ := hi.busy_clear (hi.busy hl)
  obtain hkept | ⟨o, v, e, hst, -, hj, rfl⟩ := hstep.err
  · cases (herr.symm.trans hkept).trans hnone
  · have htrace := hst.trace
    cases hj with
    | first hne => exact absurd herr hne
    | write a7 bytes => exact .inl ⟨bytes, htrace, rfl, rfl⟩
    | readFail a7 n => exact .inr (.inl ⟨n, htrace, rfl, rfl⟩)
    | readLength a7 hlen => exact .inr (.inr ⟨_, _, htrace, hlen, rfl, rfl⟩)
    | page hne => exact absurd herr hne

/-- Settles O17: before its end a step writes STATUS, RESULT, ERRINFO and the sequencer alone, and at its end what
`Writes` lists for its command. -/
theorem commandsLeaveTheSession : Obligations.CommandsLeaveTheSession := by
  intro i s t h
  obtain ⟨l, -, hstep⟩ := exec_cases h
  obtain rfl | ⟨o, v, w, hst, hw, ht⟩ := hstep.silent
  · exact ⟨rfl, rfl, rfl, rfl, rfl, rfl, fun _ => rfl, fun _ => rfl, fun _ _ _ => rfl⟩
  · rw [ht.params, ht.cmdreg, ht.overrun, ht.schedule, ht.hostRead, ht.draws, ht.cc, ht.devsel, ht.data]
    obtain ⟨_, _, _, _, _, _, _, _, rfl⟩ := hst.eq
    cases hw with
    | nothing => exact ⟨rfl, rfl, rfl, rfl, rfl, rfl, fun _ => rfl, fun _ => rfl, fun _ _ _ => rfl⟩
    | cc c hi => exact ⟨rfl, rfl, rfl, rfl, rfl, rfl, fun hc => absurd hi (hc c), fun _ => rfl, fun _ _ _ => rfl⟩
    | devsel n hi => exact ⟨rfl, rfl, rfl, rfl, rfl, rfl, fun _ => rfl, fun hn => absurd hi (hn n), fun _ _ _ => rfl⟩
    | data xs hi =>
      refine ⟨rfl, rfl, rfl, rfl, rfl, rfl, fun _ => rfl, fun _ => rfl, fun hread hpage hscan => ?_⟩
      obtain ⟨sp, a, n, rfl⟩ | ⟨sp, p, rfl⟩ | rfl := hi
      · exact absurd rfl (hread sp a n)
      · exact absurd rfl (hpage sp p)
      · exact absurd rfl hscan

/-- Settles O18: only `finish` and `raise` set the pc to IDLE, and both clear BUSY and set DONE. -/
theorem endOfCommandIsReported : Obligations.EndOfCommandIsReported := by
  intro i s t h
  obtain ⟨l, hl, hstep⟩ := exec_cases h
  cases hstep with
  | hangs => exact ⟨fun hidle => (nomatch hl.symm.trans hidle), fun _ => ⟨rfl, rfl, rfl⟩⟩
  | goesOn hst => exact ⟨nofun, fun _ => hst.status⟩
  | within hm ha hv hll => exact ⟨nofun, fun _ => (Stage.event hll.ne_start hm ha hv.quiet).status⟩
  | beginsPage hst => exact ⟨nofun, fun _ => hst.status⟩
  | finishes => exact ⟨fun _ => ⟨rfl, rfl⟩, fun hne => absurd rfl hne⟩
  | raises => exact ⟨fun _ => ⟨rfl, rfl⟩, fun hne => absurd rfl hne⟩

/-- Settles O19: every event of a command is `Addressed`. -/
theorem transactionsGoToTheSessionDevice : Obligations.TransactionsGoToTheSessionDevice := by
  intro i s t e h htrace a7 he
  obtain ⟨l, -, hstep⟩ := exec_cases h
  obtain hsame | ⟨e', -, ha, htrace'⟩ := hstep.trace
  · simp [hsame] at htrace
  · obtain rfl : e = e' := by simpa [htrace] using htrace'
    have haddr : e.address? = some a7 := by obtain ⟨_, _, rfl⟩ | ⟨_, _, rfl⟩ := he <;> rfl
    obtain ⟨sp, cc, rfl, hcc⟩ := ha a7 haddr
    have hsub : (sub sp).toNat = 0 ∨ (sub sp).toNat = 2 ∨ (sub sp).toNat = 3 := by cases sp <;> decide
    rw [translate_toNat]
    refine ⟨by omega, fun hc hs => ?_⟩
    rw [hcc hc hs]
    omega

/-- Settles O39: a step shows the PSTATE of its next label, or the one it ends with, or what an error makes of it. -/
theorem pageStateMovesAsR83 : Obligations.PageStateMovesAsR83 := by
  intro s t hi _ h
  obtain ⟨l, hl, hstep⟩ := exec_cases h
  have hp := hi.pstate_label l hl
  have hlabel := labelPState_ne_failed
  rw [hp]
  cases hstep with
  | hangs => exact ⟨hp ▸ visibleMove_labelPState l, fun hf => absurd (hp.symm.trans hf) (hlabel l)⟩
  | goesOn hst hkeep =>
    obtain ⟨hmove, hne⟩ := shown_of_eq hkeep hp
    exact ⟨hmove, fun hf => absurd hf hne⟩
  | within hm ha hv hll hp' hmove =>
    have ht := hp' hp
    exact ⟨(congrArg _ ht).trans hmove, fun hf => absurd (ht.symm.trans hf) (hlabel _)⟩
  | beginsPage hst hb hmove => exact ⟨hmove, nofun⟩
  | finishes r hst hshown hw =>
    obtain ⟨hmove, hne⟩ := hshown hp
    cases hw <;> exact ⟨hmove, fun hf => absurd hf hne⟩
  | raises hst hshown hj => exact ⟨visibleMove_raised _ _ (hshown hp).1, fun _ => Error.code_ne_none _⟩

/-- Settles O52: the word at each offset, read in its own terms. -/
theorem hostReadsTheWindow : Obligations.HostReadsTheWindow := by
  refine ⟨⟨rfl, rfl, rfl, rfl, rfl, rfl, rfl, rfl⟩, fun off s rest hs h4 hlt => ?_, fun off s rest hs hbad => ?_⟩
  · rw [step_host hs rfl, hostMove]
    obtain hreg | hdata := Nat.lt_or_ge off 0x100
    · rw [hostReadMove_register h4 hreg]
      refine ⟨registerWord { s with schedule := rest } off, s.draws, rfl, fun _ => rfl, ?_, ?_, ?_, ?_, ?_, ?_,
        fun h _ => registerWord_reserved h, fun h => absurd hreg (Nat.not_lt.2 h)⟩ <;> rintro rfl
      · rfl
      · exact Status.word_toNat s.status
      · rfl
      · show (s.cc.setWidth 32).toNat = s.cc.toNat
        exact BitVec.toNat_setWidth_of_le (by decide)
      · show (s.devsel.setWidth 32).toNat = s.devsel.toNat
        exact BitVec.toNat_setWidth_of_le (by decide)
      · exact ErrInfo.word_toNat s.errinfo
    · obtain ⟨w, n, hmove, hidle⟩ := hostReadMove_data (s := { s with schedule := rest }) h4 hdata hlt
      refine ⟨w, n, hmove, ?_, ?_, ?_, ?_, ?_, ?_, ?_, ?_, fun _ hb => (hidle hb).2⟩
      · rintro (h | hb)
        · omega
        · exact (hidle hb).1
      all_goals
        intros
        omega
  · rw [step_host hs rfl]
    exact hostReadMove_refused hbad

/-- Settles O53: the word's bytes stand at their indices, and every other index reads as before. -/
theorem hostWritesData : Obligations.HostWritesData := by
  intro off w s rest hs hb hwf h4 h hlt
  have hle : off - 0x100 + (wordBytes w).length ≤ 256 := by
    rw [wordBytes_length]
    omega
  refine ⟨s.data.writeList (off - 0x100) (wordBytes w), ?_, Memory.wf_writeList hwf hle, fun k => ?_⟩
  · rw [step_host hs rfl]
    simp only [hostMove, hostWrite_data h4 h hlt, hb, Bool.false_eq_true, if_false]
    rfl
  · rw [Memory.read_writeList hwf hle, wordBytes_length]
    split
    · exact getD_wordBytes w (by omega)
    · rfl

/-- Settles O15: the turn is the sequencer's in three ways, and its step runs the decoded command. -/
theorem stepRunsTheDecodedCommand : Obligations.StepRunsTheDecodedCommand := by
  rintro s _ l rfl hl
  refine ⟨fun hs => ?_, fun rest hs => ?_, fun m rest hs hw hb => ?_⟩
  · rw [step_noTurns hs, sequencerStep_resume hl]
  · rw [step_sequencerTurn hs]
    exact sequencerStep_resume hl
  · rw [step_waits hs hw hb, sequencerStep_resume hl]

/-- Settles O54: a write of CMDREG or DATA while BUSY = 1 is `overrun`, and one at another offset is nothing or
refused. -/
theorem hostWritesThatAreIgnored : Obligations.HostWritesThatAreIgnored := by
  intro off w s rest hs
  rw [step_host hs rfl, hostMove]
  refine ⟨fun hb hoff => ?_, fun h4 h0 hlt => hostWrite_elsewhere h4 h0 hlt, fun hbad => hostWrite_refused hbad⟩
  obtain rfl | ⟨h, hlt, h4⟩ := hoff
  · rw [hostWrite_cmdreg]
    exact congrArg _ (if_pos hb)
  · rw [hostWrite_data h4 h hlt]
    exact congrArg _ (if_pos hb)

end Sys2Proof.Proofs

/-! PROOFS. What each bus primitive takes and records (R41 to R45), the first step of the raw commands (R72 to R74,
R86), and a command whose transaction is never answered (R41, R106). -/

namespace Sys2Proof.Machine

/-! ### What an answered primitive records -/

section Answered

variable {s s' : State}

/-- An answered write records its event; one longer than MAX_WRITE is answered false (R42, D15). -/
theorem busWrite_of_answer {ok : Bool} (h : takeWriteAnswer s = some (ok, s')) (a7 : Addr7) (bytes : List Byte) :
    busWrite a7 bytes s =
      some (ok && decide (bytes.length ≤ s.params.maxWrite),
        { s' with trace := s.trace ++ [.write a7 bytes (ok && decide (bytes.length ≤ s.params.maxWrite))] }) := by
  obtain ⟨ws, n, rfl⟩ := takeWriteAnswer_spec h
  simp only [busWrite, h]
  rfl

/-- An answered read records its event (R43). -/
theorem busRead_of_answer {r : ReadReply} (h : takeReadAnswer s = some (r, s')) (a7 : Addr7) (n : Nat) :
    busRead a7 n s = some (r, { s' with trace := s.trace ++ [.read a7 n r] }) := by
  obtain ⟨⟨rs, d, rfl⟩, -⟩ := takeReadAnswer_spec h
  simp only [busRead, h]
  rfl

end Answered

/-! ### The first step of the raw commands -/

section RawStart

variable {s : State} (hpc : s.pc = .resume .start) (sp : Space)
include hpc

theorem exec_readBytes_start (a : Byte) (n : BitVec 9) :
    exec (.readBytes sp a n) s = .next (if badRange a n then raise .precondition s else s.setLabel .rb1) := by
  simp only [exec, execReadBytes, hpc]

theorem exec_writeBytes_start (a : Byte) (n : BitVec 9) :
    exec (.writeBytes sp a n) s =
      .next (if badRange a n || badNvWrite sp a n then raise .precondition s else s.setLabel .wb1) := by
  simp only [exec, execWriteBytes, hpc]

theorem exec_readPage_start (p : Byte) :
    exec (.readPage sp p) s = .next (if badPage sp p then raise .precondition s else s.setLabel .rb1) := by
  simp only [exec, execReadPage, hpc]

theorem exec_isPageErased_start (p : Byte) :
    exec (.isPageErased sp p) s = .next (if badPage sp p then raise .precondition s else s.setLabel .rb1) := by
  simp only [exec, execIsPageErased, hpc]

end RawStart

end Sys2Proof.Machine

namespace Sys2Proof.Safety

open Sys2Proof.Machine

/-! ### A transaction that is never answered -/

/-- The transport does not answer the next transaction of this kind (R41); a wait asks it for nothing (R44). -/
def Unanswered (s : State) : Primitive → Prop
  | .busWrite => takeWriteAnswer s = none
  | .busRead => takeReadAnswer s = none
  | .wait => False

/-- The sequencer issues a primitive exactly when its label names that primitive (R32). -/
theorem issues_iff {s : State} {k : Primitive} :
    s.issues k = true ↔ ∃ l, s.pc = .resume l ∧ labelPrimitive l = some k := by
  cases h : s.pc <;> simp [State.issues, h]

/-- A command is hung exactly when it stands at a label whose primitive is not answered (R106). -/
theorem hung_iff {s : State} :
    Hung s ↔ ∃ l k, s.pc = .resume l ∧ labelPrimitive l = some k ∧ Unanswered s k := by
  simp only [Hung, issues_iff]
  constructor
  · rintro (⟨⟨l, hl, hk⟩, h⟩ | ⟨⟨l, hl, hk⟩, h⟩)
    · exact ⟨l, .busWrite, hl, hk, h⟩
    · exact ⟨l, .busRead, hl, hk, h⟩
  · rintro ⟨l, k, hl, hk, h⟩
    cases k with
    | busWrite => exact .inl ⟨⟨l, hl, hk⟩, h⟩
    | busRead => exact .inr ⟨⟨l, hl, hk⟩, h⟩
    | wait => exact h.elim

section Hangs

variable {s : State}

theorem readAddress_hangs (h : Unanswered s .busWrite) (sp : Space) (a : Byte) (next : Label) :
    readAddress sp a next s = s := by
  rw [readAddress, busWrite_eq_none.2 h]

theorem readData_hangs (h : Unanswered s .busRead) (sp : Space) (n : Nat) (k : List Byte → State → State) :
    readData sp n k s = s := by
  rw [readData, busRead_eq_none.2 h]

theorem memWrite_hangs (h : Unanswered s .busWrite) (sp : Space) (a : Byte) (xs : List Byte) (k : State → State) :
    memWrite sp a xs k s = s := by
  rw [memWrite, busWrite_eq_none.2 h]

theorem erasePageStep_hangs {l : EraseLabel} (h : Unanswered s (erasePrimitive l)) (d : DeviceDescriptor) (sp : Space)
    (p : Page) (standalone : Bool) (lbl : EraseLabel → Label) (ret : Bool → State → State) :
    erasePageStep d sp p standalone lbl ret l s = s := by
  cases hk : erasePrimitive l <;> rw [hk] at h
  · exact erasePageStep_writeHangs h _ _ _ _ _ _ hk
  · exact erasePageStep_readHangs h _ _ _ _ _ _ hk
  · exact h.elim

theorem programPageStep_hangs {l : PageLabel} (h : Unanswered s (pagePrimitive l)) (d : DeviceDescriptor) (sp : Space)
    (p : Page) (target : List Byte) (lbl : PageLabel → Label) (ret : Bool → Bool → State → State) :
    programPageStep d sp p target lbl ret l s = s := by
  cases hk : pagePrimitive l <;> rw [hk] at h
  · exact programPageStep_writeHangs h _ _ _ _ _ _ hk
  · exact programPageStep_readHangs h _ _ _ _ _ _ hk
  · exact h.elim

/-- Outside the page procedures: RB2 is the one label that reads, X2 waits, and the others write. -/
theorem exec_hangs_outside {i : Instr} {l : Label} {k : Primitive} (hl : s.pc = .resume l)
    (hout : inPageProcedure l = false) (hleg : legalLabel i l = true) (hk : labelPrimitive l = some k)
    (h : Unanswered s k) : exec i s = .next s := by
  cases l <;> cases hk
  case erase | page | pages => cases hout
  case x2 => exact h.elim
  case rb2 =>
    cases i <;> simp only [legalLabel, Bool.false_eq_true] at hleg
    all_goals simp only [exec, execReadBytes, execReadPage, execIsPageErased, hl, readData_hangs h]
  all_goals
    cases i <;> simp only [legalLabel, Bool.false_eq_true] at hleg
    all_goals
      simp only [exec, execReadBytes, execWriteBytes, execReadPage, execIsPageErased, execResetDevice, execScanDevice,
        execScanDevices, hl, readAddress_hangs h, memWrite_hangs h, busWrite_eq_none.2 h]

/-- While the transport does not answer, the command's step changes nothing (R41, R106). -/
theorem Sound.exec_hangs (hi : Sound s) (h : Hung s) : exec s.command s = .next s := by
  obtain ⟨l, k, hl, hk, h⟩ := hung_iff.1 h
  cases hp : inPageProcedure l with
  | false => exact exec_hangs_outside hl hp (hi.label_legal l hl) hk h
  | true =>
    obtain ⟨d, j, hd, hj⟩ := hi.desc_and_job hl hp
    cases l with
    | erase l =>
      obtain ⟨_, _, he⟩ := exec_erasePage hi (.inl rfl) hl hd hj
      cases hk
      rw [he, erasePageStep_hangs h]
    | page l =>
      obtain ⟨_, he⟩ := exec_programPage hi (.inl rfl) hl hd hj
      cases hk
      rw [he, programPageStep_hangs h]
    | pages l =>
      obtain ⟨_, he⟩ := exec_programPage hi (.inr rfl) hl hd hj
      cases hk
      rw [he, programPageStep_hangs h]
    | _ => cases hp

/-- While the transport does not answer, the sequencer's step changes nothing (R34, R106). -/
theorem Sound.sequencerStep_hangs (hi : Sound s) (h : Hung s) : sequencerStep s = .next s := by
  obtain ⟨l, hl⟩ := h.label
  rw [sequencerStep_resume hl]
  exact hi.exec_hangs h

end Hangs

end Sys2Proof.Safety

namespace Sys2Proof.Proofs

open Sys2Proof.Machine Sys2Proof.Safety

/-- While a command is hung no step but a controller reset moves more than what the invariant and the transport do not
depend on: OVERRUN, the count of free bytes, what the host has read, and the turns. -/
theorem step_of_hung {s t : State} (hi : Sound s) (h : Hung s) (hstep : step s = .next t) :
    (∃ o n r sch,
      t = { s with status := { s.status with overrun := o }, draws := n, hostRead := r, schedule := sch }) ∨
    ∃ d cc rest, s.schedule = .host (.reset d cc) :: rest := by
  obtain ⟨sch, he⟩ | ⟨m, rest, hs, hw, -⟩ := step_cases s
  · have hhangs := (hi.hostSide s.status.overrun s.draws s.hostRead sch).sequencerStep_hangs (h.congr rfl rfl rfl rfl)
    cases hstep.symm.trans (he.trans hhangs)
    exact .inl ⟨_, _, _, _, rfl⟩
  · obtain ⟨l, hl⟩ := h.label
    have hb := hi.busy hl
    have hmove := acceptanceStartsTheCommand.2 m s rest hs hb
    cases m with
    | reset d cc => exact .inr ⟨d, cc, rest, hs⟩
    | write off w =>
      obtain ⟨o, n, r, rfl⟩ := (hmove nofun).1 t rfl hstep
      exact .inl ⟨_, _, _, _, rfl⟩
    | read off =>
      obtain ⟨o, n, r, rfl⟩ := (hmove nofun).1 t rfl hstep
      exact .inl ⟨_, _, _, _, rfl⟩
    | directive index bytes => rw [hb] at hw; cases hw
    | command w => rw [hb] at hw; cases hw

/-- Settles O16: the step of the label's primitive waits for its answer, and a host move that is no controller reset
leaves the transport alone. -/
theorem hungTransportChangesNothing : Obligations.HungTransportChangesNothing := by
  intro s hi h
  refine ⟨hi.exec_hangs h, fun t hstep => (step_of_hung hi h hstep).imp_left ?_⟩
  rintro ⟨o, n, r, sch, rfl⟩
  obtain ⟨l, hl⟩ := h.label
  have hb := hi.busy hl
  exact ⟨h.congr rfl rfl rfl rfl, rfl, rfl, rfl, hb, (hi.busy_clear hb).1⟩

/-- Settles O20: the head of a script is the answer or never comes, and a reply is within the bound of `boundReply`. -/
theorem answersComeFromTheTransport : Obligations.AnswersComeFromTheTransport := by
  refine ⟨fun s t ok h => takeWriteAnswer_spec h, fun s t r h => ?_, fun s ok rest h => takeWriteAnswer_script h,
    fun s rest h => takeReadAnswer_script h, fun s xs rest h hxs => ?_,
    fun s rest h => takeWriteAnswer_eq_none.2 (.inl ⟨rest, h⟩),
    fun s rest h => takeReadAnswer_eq_none.2 (.inl ⟨rest, h⟩)⟩
  · obtain ⟨hmoved, r', hr'⟩ := takeReadAnswer_spec h
    refine ⟨hmoved, ?_⟩
    rintro xs rfl
    exact boundReply_length hr'
  · rw [takeReadAnswer_script h, boundReply_of_le hxs]

/-- Settles O21: an answered primitive appends its one event, a write by its length in two ways. -/
theorem primitivesRecordTheirEvents : Obligations.PrimitivesRecordTheirEvents := by
  refine ⟨fun a7 bytes s s' ok h => ⟨fun hle => ?_, fun hlt => ?_⟩, fun a7 n s s' r h => busRead_of_answer h a7 n,
    fun a7 bytes s h => busWrite_eq_none.2 h, fun a7 n s h => busRead_eq_none.2 h, fun k s => rfl⟩
  · rw [busWrite_of_answer h, decide_eq_true hle, Bool.and_true]
  · rw [busWrite_of_answer h, decide_eq_false (Nat.not_le.2 hlt), Bool.and_false]

/-- Settles O22: the operand check of each command, in numbers, picks the branch of its first step. -/
theorem rawCommandsCheckOperands : Obligations.RawCommandsCheckOperands := by
  intro sp a p n s hpc
  rw [exec_readBytes_start hpc, exec_writeBytes_start hpc, exec_readPage_start hpc, exec_isPageErased_start hpc]
  simp only [Bool.or_eq_true, badRange_iff, badNvWrite_iff, badPage_iff]
  refine ⟨fun hbad => ?_, fun h0 hr => ?_, fun hbad => ?_, fun h0 hr hnv => ?_, fun hbad => ?_, fun hsp hp => ?_⟩
  · rw [if_pos hbad]
  · rw [if_neg (by omega)]
    rfl
  · rw [if_pos (or_assoc.2 hbad)]
  · rw [if_neg]
    · rfl
    · rintro (hrange | ⟨hsp, hbad⟩)
      · omega
      · obtain ⟨ha, hn⟩ := hnv hsp
        omega
  · rw [if_pos hbad]
    exact ⟨rfl, rfl⟩
  · rw [if_neg (not_or.2 ⟨hsp, Nat.not_lt.2 hp⟩)]
    exact ⟨rfl, rfl⟩

end Sys2Proof.Proofs

/-! PROOFS. The opcode map (R61) as the words of its rows: which words a row reads, that a word has one row at most, and
from that the two directions of the encoding and R63's illegal words; and a script's lines (R66). -/

namespace Sys2Proof

/-! ### The fields each opcode uses -/

theorem opUsesSpace_iff : ∀ op, opUsesSpace op = true ↔ op ∈ [1, 2, 3, 4, 5, 6, 7, 8, 15] := by decide

theorem opUsesSpace_eq_false : ∀ op, opUsesSpace op = false ↔ op = 0 ∨ op ∈ [9, 10, 11, 12, 13, 14] := by decide

theorem opUsesArg_eq_false : ∀ op, opUsesArg op = false ↔ op = 0 ∨ op ∈ [9, 11, 12, 14] := by decide

theorem opUsesCount_eq_false : ∀ op, opUsesCount op = false ↔ op = 0 ∨ op ∈ [3, 4, 5, 6, 7, 9, 10, 11, 13, 15] := by
  decide

/-- R63's conditions on a word, one by one. -/
theorem illegalWord_iff (w : Word) : illegalWord w = true ↔
    wordOp w = 0 ∨ wordSbz0 w ≠ 0 ∨ wordSbz1 w ≠ 0 ∨ (opUsesSpace (wordOp w) = true ∧ wordSpace w = 3) ∨
    (opUsesSpace (wordOp w) = false ∧ wordSpace w ≠ 0) ∨ (opUsesArg (wordOp w) = false ∧ wordArg w ≠ 0) ∨
    (opUsesCount (wordOp w) = false ∧ wordCount w ≠ 0) := by
  cases hu : opUsesSpace (wordOp w) <;> simp [illegalWord, hu, or_assoc]

/-! ### The rows of the opcode map -/

/-- The opcode of a row (R61). -/
def OpcodeRow.op (r : OpcodeRow) : BitVec 4 := wordOp r.pattern

/-- A word of a row: the row's opcode, the given fields where the row uses them, and 0 elsewhere (R61, R63). -/
def OpcodeRow.word (r : OpcodeRow) (space : BitVec 2) (arg : Byte) (count : BitVec 9) : Word :=
  fieldWord 0 (if opUsesCount r.op then count else 0) (if opUsesArg r.op then arg else 0) 0
    (if opUsesSpace r.op then space else 0) r.op

/-- A row's mask covers OP, both should-be-zero fields and each field that the row does not use; its pattern is its
opcode (R61). -/
theorem opcodeRows_mask_pattern : ∀ r ∈ opcodeRows,
    r.mask = fieldWord (.allOnes 7) (if opUsesCount r.op then 0 else .allOnes 9)
      (if opUsesArg r.op then 0 else .allOnes 8) (.allOnes 2) (if opUsesSpace r.op then 0 else .allOnes 2)
      (.allOnes 4) ∧
    r.pattern = fieldWord 0 0 0 0 0 r.op := by decide

theorem usesSpace_of_mem : ∀ r ∈ opcodeRows, r.usesSpace = opUsesSpace r.op := by decide

theorem op_ne_zero_of_mem : ∀ r ∈ opcodeRows, r.op ≠ 0 := by decide

/-- Every opcode but the reserved one has a row (R61). -/
theorem exists_row_of_op : ∀ op : BitVec 4, op ≠ 0 → ∃ r ∈ opcodeRows, r.op = op := by decide

theorem opcodeRows_nodup_op : (opcodeRows.map OpcodeRow.op).Nodup := by decide

theorem row_eq_of_op {r r' : OpcodeRow} (hr : r ∈ opcodeRows) (hr' : r' ∈ opcodeRows) (h : r.op = r'.op) : r = r' :=
  List.inj_on_of_nodup_map opcodeRows_nodup_op hr hr' h

/-! ### The command a row builds -/

theorem exists_build_eq_getElem (k : Nat) (sp : Space) (a : Byte) (n : BitVec 9)
    (hk : k < opcodeRows.length := by decide) :
    ∃ r ∈ opcodeRows, ∃ sp' a' n', opcodeRows[k].build sp a n = r.build sp' a' n' :=
  ⟨_, List.getElem_mem hk, sp, a, n, rfl⟩

/-- Every command but the reserved row's is built by a row of the map. -/
theorem eq_illegal_or_build (i : Instr) :
    (∃ w, i = .illegal w) ∨ ∃ r ∈ opcodeRows, ∃ sp a n, i = r.build sp a n := by
  cases i with
  | readBytes sp a n => exact .inr (exists_build_eq_getElem 0 sp a n)
  | writeBytes sp a n => exact .inr (exists_build_eq_getElem 1 sp a n)
  | readPage sp p => exact .inr (exists_build_eq_getElem 2 sp p 0)
  | isPageWritable sp p => exact .inr (exists_build_eq_getElem 3 sp p 0)
  | isPageErased sp p => exact .inr (exists_build_eq_getElem 4 sp p 0)
  | erasePage sp p => exact .inr (exists_build_eq_getElem 5 sp p 0)
  | programPage sp p => exact .inr (exists_build_eq_getElem 6 sp p 0)
  | programPages sp p n => exact .inr (exists_build_eq_getElem 7 sp p n)
  | resetDevice => exact .inr (exists_build_eq_getElem 8 .register 0 0)
  | scanDevice c => exact .inr (exists_build_eq_getElem 9 .register c 0)
  | scanDevices => exact .inr (exists_build_eq_getElem 10 .register 0 0)
  | programControlCode n => exact .inr (exists_build_eq_getElem 11 .register 0 n)
  | setControlCode c => exact .inr (exists_build_eq_getElem 12 .register c 0)
  | setDevice n => exact .inr (exists_build_eq_getElem 13 .register 0 n)
  | translate sp c => exact .inr (exists_build_eq_getElem 14 sp c 0)
  | illegal w => exact .inl ⟨w, rfl⟩

/-- The command of a row is well formed, and its word is the row's (R58, R61). -/
theorem wellFormed_encode_build : ∀ r ∈ opcodeRows, ∀ sp a n,
    WellFormed (r.build sp a n) = true ∧ encode (r.build sp a n) = r.word (spaceCode sp) a n := by
  intro r hr sp a n
  fin_cases hr <;> exact ⟨rfl, packWord_eq_fieldWord ..⟩

/-- A row's command does not depend on the fields that the row does not use. -/
theorem build_used : ∀ r ∈ opcodeRows, ∀ sp a n,
    r.build (if r.usesSpace then sp else .register) (if opUsesArg r.op then a else 0)
      (if opUsesCount r.op then n else 0) = r.build sp a n := by
  intro r hr sp a n
  fin_cases hr <;> rfl

/-! ### The words of a row -/

theorem spaceOf_eq_none : ∀ {c : BitVec 2}, spaceOf c = none ↔ c = 3 := by decide

/-- Masking a used field with 0 and an unused one with ones gives 0 exactly when the unused field is 0. -/
theorem and_unused_eq_zero {k : Nat} (b : Bool) (x : BitVec k) :
    x &&& (if b then 0 else .allOnes k) = 0 ↔ x = if b then x else 0 := by
  cases b <;> simp

/-- A field that is 0 where it is not used. -/
theorem eq_used {k : Nat} {b : Bool} {x : BitVec k} (h : b = false → x = 0) : x = if b then x else 0 := by
  cases b
  · exact h rfl
  · rfl

section Row

variable {r : OpcodeRow} (hr : r ∈ opcodeRows)
include hr

/-- A row's mask test holds exactly of the row's words (R61, R62). -/
theorem OpcodeRow.hits_iff (w : Word) : r.hits w = true ↔ w = r.word (wordSpace w) (wordArg w) (wordCount w) := by
  obtain ⟨hmask, hpattern⟩ := opcodeRows_mask_pattern r hr
  rw [OpcodeRow.hits, beq_iff_eq, hmask, hpattern]
  conv_lhs => rw [word_eq_fieldWord w]
  conv_rhs => lhs; rw [word_eq_fieldWord w]
  simp only [fieldWord_and_eq, OpcodeRow.word, fieldWord_inj, wordOp_fieldWord, wordSpace_fieldWord, wordSbz0_fieldWord,
    wordArg_fieldWord, wordCount_fieldWord, wordSbz1_fieldWord, and_unused_eq_zero, BitVec.and_allOnes]

/-- A word of a row reads as the row's command (R60). -/
theorem OpcodeRow.read_word (sp : Space) (a : Byte) (n : BitVec 9) :
    r.read (r.word (spaceCode sp) a n) = r.build sp a n := by
  rw [← build_used r hr sp a n, OpcodeRow.read, OpcodeRow.word, ← usesSpace_of_mem r hr, extract_space_fieldWord,
    extract_arg_fieldWord, extract_count_fieldWord]
  cases r.usesSpace <;> simp

/-- A row's word whose SPACE names a space is none of R63's. -/
theorem OpcodeRow.illegalWord_word (sp : Space) (a : Byte) (n : BitVec 9) :
    illegalWord (r.word (spaceCode sp) a n) = false := by
  have hop := op_ne_zero_of_mem r hr
  have hsp : spaceCode sp ≠ 3#2 := by cases sp <;> decide
  simp only [illegalWord, OpcodeRow.word, wordOp_fieldWord, wordSpace_fieldWord, wordSbz0_fieldWord, wordArg_fieldWord,
    wordCount_fieldWord, wordSbz1_fieldWord]
  split_ifs <;> simp_all

/-- A word that passes a row's test names a space, or it is illegal for its SPACE (R62, R63). -/
theorem OpcodeRow.word_or_illegal_of_hits {w : Word} (h : r.hits w = true) :
    (∃ sp a n, w = r.word (spaceCode sp) a n) ∨ (illegalWord w = true ∧ r.read w = .illegal w) := by
  have hw := (OpcodeRow.hits_iff hr w).1 h
  cases hu : opUsesSpace r.op with
  | false =>
    exact .inl ⟨.register, wordArg w, wordCount w, by
      simpa only [OpcodeRow.word, hu, Bool.false_eq_true, if_false] using hw⟩
  | true =>
    cases hc : spaceOf (wordSpace w) with
    | some sp => exact .inl ⟨sp, wordArg w, wordCount w, spaceOf_eq_some.1 hc ▸ hw⟩
    | none =>
      have hop : wordOp w = r.op := by rw [hw, OpcodeRow.word, wordOp_fieldWord]
      refine .inr ⟨?_, ?_⟩
      · simp [illegalWord, hop, hu, spaceOf_eq_none.1 hc]
      · rw [wordSpace] at hc
        simp only [OpcodeRow.read, usesSpace_of_mem r hr, hu, hc, if_true]

end Row

/-- A word that R63 does not call illegal is a word of its opcode's row. -/
theorem eq_word_of_legal {w : Word} (h : illegalWord w ≠ true) :
    ∃ r ∈ opcodeRows, w = r.word (wordSpace w) (wordArg w) (wordCount w) := by
  simp only [ne_eq, illegalWord_iff, not_or, not_and, not_not] at h
  obtain ⟨hop, hz0, hz1, -, hspace, harg, hcount⟩ := h
  obtain ⟨r, hr, hrop⟩ := exists_row_of_op _ hop
  rw [← hrop] at hspace harg hcount
  exact ⟨r, hr, (word_eq_fieldWord w).trans
    (fieldWord_inj.2 ⟨hz1, eq_used hcount, eq_used harg, hz0, eq_used hspace, hrop.symm⟩)⟩

/-! ### The decoder -/

/-- R62's loop reads the word by a row that it matches, or it matches no row. -/
theorem decodeRows_cases (rows : List OpcodeRow) (w : Word) :
    (∃ r ∈ rows, r.hits w = true ∧ decodeRows rows w = r.read w) ∨
    ((∀ r ∈ rows, r.hits w = false) ∧ decodeRows rows w = .illegal w) := by
  induction rows with
  | nil => exact .inr ⟨nofun, rfl⟩
  | cons r rows ih =>
    rw [decodeRows]
    cases h : r.hits w with
    | true => exact .inl ⟨r, List.mem_cons_self, h, rfl⟩
    | false =>
      obtain ⟨r', hr', hit⟩ | ⟨hnone, hill⟩ := ih
      · exact .inl ⟨r', List.mem_cons_of_mem _ hr', hit⟩
      · exact .inr ⟨List.forall_mem_cons.2 ⟨h, hnone⟩, hill⟩

/-- A word is a row's and decodes to that row's command, or R63 calls it illegal and it decodes to the reserved row. -/
theorem decodeWord_cases (w : Word) :
    (∃ r ∈ opcodeRows, ∃ sp a n, w = r.word (spaceCode sp) a n ∧ decodeWord w = r.build sp a n) ∨
    (illegalWord w = true ∧ decodeWord w = .illegal w) := by
  obtain ⟨r, hr, hit, hdec⟩ | ⟨hnone, hdec⟩ := decodeRows_cases opcodeRows w
  · obtain ⟨sp, a, n, rfl⟩ | ⟨hill, hread⟩ := OpcodeRow.word_or_illegal_of_hits hr hit
    · exact .inl ⟨r, hr, sp, a, n, rfl, hdec.trans (OpcodeRow.read_word hr sp a n)⟩
    · exact .inr ⟨hill, hdec.trans hread⟩
  · refine .inr ⟨?_, hdec⟩
    by_contra hlegal
    obtain ⟨r, hr, hw⟩ := eq_word_of_legal hlegal
    exact absurd ((OpcodeRow.hits_iff hr w).2 hw) (by simp [hnone r hr])

/-- A row's word decodes to the row's command, since no other row has its opcode. -/
theorem decodeWord_word {r : OpcodeRow} (hr : r ∈ opcodeRows) (sp : Space) (a : Byte) (n : BitVec 9) :
    decodeWord (r.word (spaceCode sp) a n) = r.build sp a n := by
  obtain ⟨r', hr', sp', a', n', hw, hdec⟩ | ⟨hill, -⟩ := decodeWord_cases (r.word (spaceCode sp) a n)
  · have hop := congrArg wordOp hw
    simp only [OpcodeRow.word, wordOp_fieldWord] at hop
    obtain rfl := row_eq_of_op hr hr' hop
    rw [hdec, ← OpcodeRow.read_word hr, ← hw, OpcodeRow.read_word hr]
  · exact absurd ((OpcodeRow.illegalWord_word hr sp a n).symm.trans hill) nofun

/-- The words that decode to the reserved row are those that R63 calls illegal. -/
theorem decodeWord_eq_illegal_iff (w : Word) : decodeWord w = .illegal w ↔ illegalWord w = true := by
  obtain ⟨r, hr, sp, a, n, rfl, hdec⟩ | ⟨hill, hdec⟩ := decodeWord_cases w
  · rw [hdec, OpcodeRow.illegalWord_word hr]
    refine ⟨fun h => ?_, nofun⟩
    have hwf := (wellFormed_encode_build r hr sp a n).1
    rw [h] at hwf
    exact (OpcodeRow.illegalWord_word hr sp a n).symm.trans hwf
  · exact iff_of_true hdec hill

/-- The bytes of a word decode as the word does (R19). -/
theorem decode_wordBytes (w : Word) : decode (wordBytes w) = .ok (decodeWord w) := by
  rw [wordBytes, decode, bytesWord_wordBytes]

end Sys2Proof

namespace Sys2Proof.Machine

/-- The reserved row raises IllegalCommand at its first step (R62, R63). -/
theorem exec_illegal_start {s : State} (hpc : s.pc = .resume .start) (w : Word) :
    exec (.illegal w) s = .next (raise .illegalCommand s) := by
  simp only [exec, execIllegal, hpc]

/-- A directive within DATA stores its bytes (R66). -/
theorem directive_of_le {o : Nat} {bs : List Byte} (h : o + bs.length ≤ 256) (s : State) :
    directive o bs s = .next (s.setData (s.data.writeList o bs)) := if_pos h

theorem directive_of_lt {o : Nat} {bs : List Byte} (h : 256 < o + bs.length) (s : State) :
    directive o bs s = .refused (.badDirective o bs.length) := if_neg (Nat.not_le.2 h)

end Sys2Proof.Machine

namespace Sys2Proof.Proofs

open Sys2Proof.Machine

/-- Settles O1: a command is the reserved row's, with one of R63's words, or a row builds it, from that row's
word. -/
theorem decodeUndoesEncode : Obligations.DecodeUndoesEncode := by
  intro i hwf
  have hdec : decodeWord (encode i) = i := by
    obtain ⟨w, rfl⟩ | ⟨r, hr, sp, a, n, rfl⟩ := eq_illegal_or_build i
    · exact (decodeWord_eq_illegal_iff w).2 hwf
    · rw [(wellFormed_encode_build r hr sp a n).2, decodeWord_word hr]
  exact ⟨hdec, by rw [decode_wordBytes, hdec]⟩

/-- Settles O2: a word is a row's and is the word of that row's command, or it is illegal and the reserved row
carries it. -/
theorem encodeUndoesDecode : Obligations.EncodeUndoesDecode := by
  intro w
  obtain ⟨r, hr, sp, a, n, rfl, hdec⟩ | ⟨hill, hdec⟩ := decodeWord_cases w
  · rw [hdec]
    exact wellFormed_encode_build r hr sp a n
  · rw [hdec]
    exact ⟨hill, rfl⟩

/-- Settles O3: the conditions of `illegalWord`, with the opcodes that do not use a field listed; OP 0 is illegal in any
case. -/
theorem illegalWordsExactly : Obligations.IllegalWordsExactly := by
  intro w
  rw [decodeWord_eq_illegal_iff, illegalWord_iff, opUsesSpace_iff, opUsesSpace_eq_false, opUsesArg_eq_false,
    opUsesCount_eq_false]
  tauto

/-- Settles O57: a script's line is the host's move when BUSY = 0, and a list stored in DATA reads back (R66). -/
theorem scriptLinesRun : Obligations.ScriptLinesRun := by
  refine ⟨fun w s rest hs hb => ?_, fun o bs s rest hs hb hwf hle => ?_, fun o bs s rest hs hb hlt => ?_⟩ <;>
    rw [step_host hs (by rw [hb, Bool.and_false]), hostMove]
  · rw [directive_of_le hle]
    exact ⟨_, rfl, Memory.wf_writeList hwf hle, Memory.read_writeList hwf hle⟩
  · rw [directive_of_lt hlt]

/-- A word decodes to the well-formed command whose word it is. -/
theorem decodeWord_of_encode {i : Instr} {w : Word} (hwf : WellFormed i = true) (hw : encode i = w) :
    decodeWord w = i :=
  hw ▸ (decodeUndoesEncode i hwf).1

/-- Settles O4: each word is the word of its command. -/
theorem sampleWordsDecode : Obligations.SampleWordsDecode := by
  unfold Obligations.SampleWordsDecode
  and_intros <;> exact decodeWord_of_encode rfl rfl

/-- Settles O14: it is the reserved row's arm at its first step. -/
theorem illegalCommandIsRaised : Obligations.IllegalCommandIsRaised := fun w _ hpc => exec_illegal_start hpc w

end Sys2Proof.Proofs

/-! PROOFS. The address translator (R67 to R69): a bus address is the number whose base 8 digits are the code and the
sub-address, so both read back from it, and TRANSLATE reports that number. -/

namespace Sys2Proof.Machine

/-! ### The bus address and its two digits -/

theorem sub_injective : Function.Injective sub := by
  intro sp sp'
  cases sp <;> cases sp' <;> decide

/-- EEPROM has the highest sub-address (R67). -/
theorem sub_toNat_le (sp : Space) : (sub sp).toNat ≤ 3 := by
  cases sp <;> decide

/-- The code reads back from a bus address. -/
theorem translate_toNat_div (sp : Space) (cc : ControlCode) : (translate sp cc).toNat / 8 = cc.toNat := by
  rw [translate_toNat, Nat.mul_add_div (by decide), Nat.div_eq_of_lt (sub sp).isLt, Nat.add_zero]

/-- The sub-address reads back from a bus address. -/
theorem translate_toNat_mod (sp : Space) (cc : ControlCode) : (translate sp cc).toNat % 8 = (sub sp).toNat := by
  rw [translate_toNat, Nat.mul_add_mod, Nat.mod_eq_of_lt (sub sp).isLt]

/-- A bus address names one space under one code. -/
theorem translate_inj {sp sp' : Space} {cc cc' : ControlCode} :
    translate sp cc = translate sp' cc' ↔ sp = sp' ∧ cc = cc' := by
  refine ⟨fun h => ⟨sub_injective (BitVec.eq_of_toNat_eq ?_), BitVec.eq_of_toNat_eq ?_⟩,
    fun ⟨hsp, hcc⟩ => hsp ▸ hcc ▸ rfl⟩
  · rw [← translate_toNat_mod sp cc, h, translate_toNat_mod]
  · rw [← translate_toNat_div sp cc, h, translate_toNat_div]

/-! ### TRANSLATE -/

/-- The word TRANSLATE reports for an operand that has passed its check (R69). -/
theorem translate_nibble_setWidth {cc : Byte} (h : cc.toNat ≤ 15) (sp : Space) :
    (translate sp (nibble cc)).setWidth 32 = BitVec.ofNat 32 (cc.toNat * 8 + (sub sp).toNat) := by
  rw [← BitVec.ofNat_toNat, translate_toNat, nibble_toNat h, Nat.mul_comm]

/-- TRANSLATE has one step: the operand check, then its report (R69). -/
theorem exec_translate_start {s : State} (hpc : s.pc = .resume .start) (sp : Space) (cc : Byte) :
    exec (.translate sp cc) s =
      .next (if above15 cc then raise .precondition s else finish ((translate sp (nibble cc)).setWidth 32) s) := by
  simp only [exec, execTranslate, hpc]

end Sys2Proof.Machine

namespace Sys2Proof.Proofs

open Sys2Proof.Machine

/-- Settles O5: the digits of an address read back, and a code is at most 15 and a sub-address at most 3. -/
theorem translatorLaws : Obligations.TranslatorLaws := by
  refine ⟨fun sp cc => ⟨translate_toNat_div sp cc, translate_toNat_mod sp cc, ?_⟩,
    fun _ _ _ _ => translate_inj.1, rfl⟩
  have hcc := cc.isLt
  have hsub := sub_toNat_le sp
  rw [translate_toNat]
  omega

/-- Settles O6: the operand check of TRANSLATE, in numbers, picks how its one step ends. -/
theorem translateReportsAddress : Obligations.TranslateReportsAddress := by
  intro sp cc s hpc
  rw [exec_translate_start hpc]
  refine ⟨fun hle => ?_, fun hlt => ?_⟩
  · rw [if_neg (above15_iff.not.2 hle.not_gt), translate_nibble_setWidth hle]
  · rw [if_pos (above15_iff.2 hlt)]

end Sys2Proof.Proofs

/-! PROOFS. The transactions of raw access and of the page procedures: the address write and the data read of every
MemRead (R70), the one transfer of every MemWrite (R71), and how READ_BYTES, WRITE_BYTES, READ_PAGE and IS_PAGE_ERASED
end (R72 to R74, R86). -/

namespace Sys2Proof.Machine

/-! ### MemRead and MemWrite once the transport has answered -/

section Transactions

variable {s t : State} {sp : Space}

/-- An answered WB1 goes on, or raises TransportError (R71). -/
theorem memWrite_of_answer {a : Byte} {v : List Byte} {ok : Bool}
    (h : busWrite (translate sp s.cc) (a :: v) s = some (ok, t)) (k : State → State) :
    memWrite sp a v k s = if ok then k t else raise (.transport (translate sp s.cc) false false) t := by
  rw [memWrite, h]
  cases ok <;> rfl

/-- RB1 is a transfer of the address alone (R70). -/
theorem readAddress_eq_memWrite (a : Byte) (next : Label) :
    readAddress sp a next s = memWrite sp a [] (fun u => u.setLabel next) s := rfl

/-- An answered RB1 goes on to RB2, or raises TransportError (R70). -/
theorem readAddress_of_answer {a : Byte} {ok : Bool} (h : busWrite (translate sp s.cc) [a] s = some (ok, t))
    (next : Label) :
    readAddress sp a next s =
      if ok then t.setLabel next else raise (.transport (translate sp s.cc) false false) t := by
  rw [readAddress_eq_memWrite, memWrite_of_answer h]

/-- RB2 goes on with a read of the right length (R70). -/
theorem readData_of_bytes {n : Nat} {xs : List Byte} (h : busRead (translate sp s.cc) n s = some (.bytes xs, t))
    (hlen : xs.length = n) (k : List Byte → State → State) : readData sp n k s = k xs t := by
  rw [readData, h]
  exact if_pos hlen

/-- RB2 raises TransportError for any other answer; LENGTH_MISMATCH says that bytes came, but too few or too
many (R24, R70). -/
theorem readData_of_bad {n : Nat} {r : ReadReply} (h : busRead (translate sp s.cc) n s = some (r, t))
    (hbad : ∀ xs, r = .bytes xs → xs.length ≠ n) (k : List Byte → State → State) :
    readData sp n k s = raise (.transport (translate sp s.cc) true (r != .fail)) t := by
  rw [readData, h]
  cases r with
  | fail => rfl
  | bytes xs => exact if_neg (hbad xs rfl)

/-- Storing a delivered read at the head of DATA: the bytes read, and every other byte as it was (R25, R72). -/
theorem storeData_of_read {a7 : Addr7} {n : Nat} {xs : List Byte} (h : busRead a7 n s = some (.bytes xs, t))
    (hwf : s.data.wf) :
    ∃ m : Memory, t.storeData xs = { t with data := m } ∧ m.wf ∧
      ∀ k, m.read k = if k < xs.length then xs.getD k 0 else s.data.read k := by
  obtain ⟨hmoved, r, hr⟩ := busRead_spec h
  have hlen : 0 + xs.length ≤ 256 := (Nat.zero_add _).trans_le (boundReply_length hr)
  refine ⟨s.data.writeList 0 xs, ?_, Memory.wf_writeList hwf hlen, fun k => ?_⟩
  · rw [← hmoved.data]
    rfl
  · simp [Memory.read_writeList hwf hlen k]

theorem State.dataSlice_zero (s : State) (n : Nat) : s.dataSlice 0 n = (List.range n).map s.data.read := by
  simp [State.dataSlice]

end Transactions

/-- The address of a page, from a page operand that has passed its check (R46, R74). -/
theorem pageAddress_nibble {a p : Byte} (hp : p.toNat ≤ 15) (ha : a.toNat = 16 * p.toNat) :
    pageAddress (nibble p) = a :=
  BitVec.eq_of_toNat_eq (by rw [pageAddress_toNat, nibble_toNat hp, ha])

/-! ### The raw commands at their transactions -/

section RawSteps

variable {s : State} (sp : Space)

theorem exec_readBytes_rb1 (hpc : s.pc = .resume .rb1) (a : Byte) (n : BitVec 9) :
    exec (.readBytes sp a n) s = .next (readAddress sp a .rb2 s) := by
  simp only [exec, execReadBytes, hpc]

theorem exec_readPage_rb1 (hpc : s.pc = .resume .rb1) (p : Byte) :
    exec (.readPage sp p) s = .next (readAddress sp (pageAddress (nibble p)) .rb2 s) := by
  simp only [exec, execReadPage, hpc]

theorem exec_isPageErased_rb1 (hpc : s.pc = .resume .rb1) (p : Byte) :
    exec (.isPageErased sp p) s = .next (readAddress sp (pageAddress (nibble p)) .rb2 s) := by
  simp only [exec, execIsPageErased, hpc]

theorem exec_readBytes_rb2 (hpc : s.pc = .resume .rb2) (a : Byte) (n : BitVec 9) :
    exec (.readBytes sp a n) s = .next (readData sp n.toNat (fun xs u => finish 0 (u.storeData xs)) s) := by
  simp only [exec, execReadBytes, hpc]

theorem exec_readPage_rb2 (hpc : s.pc = .resume .rb2) (p : Byte) :
    exec (.readPage sp p) s = .next (readData sp 16 (fun xs u => finish 0 (u.storeData xs)) s) := by
  simp only [exec, execReadPage, hpc]

theorem exec_isPageErased_rb2 (hpc : s.pc = .resume .rb2) (p : Byte) :
    exec (.isPageErased sp p) s = .next (readData sp 16 (fun xs u => finish (if allZero xs then 1 else 0) u) s) := by
  simp only [exec, execIsPageErased, hpc]

theorem exec_writeBytes_wb1 (hpc : s.pc = .resume .wb1) (a : Byte) (n : BitVec 9) :
    exec (.writeBytes sp a n) s = .next (memWrite sp a (s.dataSlice 0 n.toNat) (finish 0) s) := by
  simp only [exec, execWriteBytes, hpc]

end RawSteps

/-! ### What a raw command and a read-back share -/

section RawReads

variable {i : Instr} {sp : Space} {s : State}

/-- RB1 of a raw read, whichever command it is (R72, R74, R86). -/
theorem exec_rawRead_rb1 {a : Byte} (hpc : s.pc = .resume .rb1)
    (hi : (∃ n, i = .readBytes sp a n) ∨
      ∃ p, p.toNat ≤ 15 ∧ a.toNat = 16 * p.toNat ∧ (i = .readPage sp p ∨ i = .isPageErased sp p)) :
    exec i s = .next (readAddress sp a .rb2 s) := by
  obtain ⟨n, rfl⟩ | ⟨p, hp, ha, rfl | rfl⟩ := hi
  · exact exec_readBytes_rb1 sp hpc a n
  · rw [exec_readPage_rb1 sp hpc, pageAddress_nibble hp ha]
  · rw [exec_isPageErased_rb1 sp hpc, pageAddress_nibble hp ha]

/-- RB2 of a raw read, whichever command it is (R72, R74, R86). -/
theorem exec_rawRead_rb2 {n : Nat} (hpc : s.pc = .resume .rb2)
    (hi : (∃ a c, i = .readBytes sp a c ∧ n = c.toNat) ∨
      ∃ p, n = 16 ∧ (i = .readPage sp p ∨ i = .isPageErased sp p)) :
    ∃ k, exec i s = .next (readData sp n k s) := by
  obtain ⟨a, c, rfl, rfl⟩ | ⟨p, rfl, rfl | rfl⟩ := hi
  · exact ⟨_, exec_readBytes_rb2 sp hpc a c⟩
  · exact ⟨_, exec_readPage_rb2 sp hpc p⟩
  · exact ⟨_, exec_isPageErased_rb2 sp hpc p⟩

end RawReads

end Sys2Proof.Machine

namespace Sys2Proof.Safety

open Sys2Proof.Machine

/-! ### The read-backs of the page procedures -/

section ReadBack

variable {s t : State} {d : DeviceDescriptor} {sp : Space} {p : Page} {standalone : Bool} {target : List Byte}

theorem erasePageStep_address {lbl : EraseLabel → Label} {ret : Bool → State → State} {l l' : EraseLabel}
    (h : eraseRead l = some l') :
    erasePageStep d sp p standalone lbl ret l s = readAddress sp (pageAddress p) (lbl l') s := by
  cases l <;> cases h <;> rfl

theorem erasePageStep_data {lbl : EraseLabel → Label} {ret : Bool → State → State} {l l' : EraseLabel}
    (h : eraseRead l = some l') : ∃ k, erasePageStep d sp p standalone lbl ret l' s = readData sp 16 k s := by
  cases l <;> cases h <;> exact ⟨_, rfl⟩

theorem pageRead_p2 {l : EraseLabel} {l' : PageLabel} (h : pageRead (.p2 l) = some l') :
    ∃ e, eraseRead l = some e ∧ l' = .p2 e := by
  obtain ⟨e, he, rfl⟩ := Option.map_eq_some_iff.1 h
  exact ⟨e, he, rfl⟩

theorem programPageStep_address {lbl : PageLabel → Label} {ret : Bool → Bool → State → State} {l l' : PageLabel}
    (h : pageRead l = some l') :
    programPageStep d sp p target lbl ret l s = readAddress sp (pageAddress p) (lbl l') s := by
  cases l with
  | p2 l =>
    obtain ⟨e, he, rfl⟩ := pageRead_p2 h
    rw [programPageStep, erasePageStep_address he]
  | p1Rb1 | p5Rb1 => cases h; rfl
  | p1Rb2 | p3Wb1 | p4 | p5Rb2 => cases h

theorem programPageStep_data {lbl : PageLabel → Label} {ret : Bool → Bool → State → State} {l l' : PageLabel}
    (h : pageRead l = some l') : ∃ k, programPageStep d sp p target lbl ret l' s = readData sp 16 k s := by
  cases l with
  | p2 l =>
    obtain ⟨e, he, rfl⟩ := pageRead_p2 h
    rw [programPageStep]
    exact erasePageStep_data he
  | p1Rb1 | p5Rb1 => cases h; exact ⟨_, rfl⟩
  | p1Rb2 | p3Wb1 | p4 | p5Rb2 => cases h

/-- A read-back stands in ERASE_PAGE's ErasePage, or in a ProgramPage under its caller's names (R79, R80). -/
theorem readAfter_cases {l l' : Label} (h : readAfter l = some l') :
    (∃ e e', eraseRead e = some e' ∧ l = .erase e ∧ l' = .erase e') ∨
    ∃ lbl x x', PageNaming lbl ∧ pageRead x = some x' ∧ l = lbl x ∧ l' = lbl x' := by
  cases l with
  | erase e =>
    obtain ⟨e', he, rfl⟩ := Option.map_eq_some_iff.1 h
    exact .inl ⟨e, e', he, rfl, rfl⟩
  | page x =>
    obtain ⟨x', hx, rfl⟩ := Option.map_eq_some_iff.1 h
    exact .inr ⟨.page, x, x', .inl rfl, hx, rfl, rfl⟩
  | pages x =>
    obtain ⟨x', hx, rfl⟩ := Option.map_eq_some_iff.1 h
    exact .inr ⟨.pages, x, x', .inr rfl, hx, rfl, rfl⟩
  | _ => cases h

theorem readAfter_inPageProcedure {l l' : Label} (h : readAfter l = some l') :
    inPageProcedure l = true ∧ inPageProcedure l' = true := by
  obtain ⟨e, e', -, rfl, rfl⟩ | ⟨lbl, x, x', hn, -, rfl, rfl⟩ := readAfter_cases h
  · exact ⟨rfl, rfl⟩
  · exact ⟨hn.inPageProcedure x, hn.inPageProcedure x'⟩

/-- RB1 of a read-back writes the address of the page in progress (R70, R79, R80). -/
theorem exec_readBack_address {l l' : Label} {j : PageJob} (hi : Sound s) (hl : s.pc = .resume l)
    (hr : readAfter l = some l') (hj : pageJob s = some j) :
    exec s.command s = .next (readAddress j.space (pageAddress j.page) l' s) := by
  obtain ⟨d, -, hd, -⟩ := hi.desc_and_job hl (readAfter_inPageProcedure hr).1
  obtain ⟨e, e', he, rfl, rfl⟩ | ⟨lbl, x, x', hn, hx, rfl, rfl⟩ := readAfter_cases hr
  · obtain ⟨_, _, hstep⟩ := exec_erasePage hi (.inl rfl) hl hd hj
    rw [hstep, erasePageStep_address he]
  · obtain ⟨_, hstep⟩ := exec_programPage hi hn hl hd hj
    rw [hstep, programPageStep_address hx]

/-- RB2 of a read-back reads the sixteen bytes of the page in progress (R70, R79, R80). -/
theorem exec_readBack_data {l l' : Label} {j : PageJob} (hi : Sound s) (hr : readAfter l = some l')
    (hl : s.pc = .resume l') (hj : pageJob s = some j) :
    ∃ k, exec s.command s = .next (readData j.space 16 k s) := by
  obtain ⟨d, -, hd, -⟩ := hi.desc_and_job hl (readAfter_inPageProcedure hr).2
  obtain ⟨e, e', he, rfl, rfl⟩ | ⟨lbl, x, x', hn, hx, rfl, rfl⟩ := readAfter_cases hr
  · obtain ⟨_, _, hstep⟩ := exec_erasePage hi (.inl rfl) hl hd hj
    obtain ⟨k, hk⟩ := erasePageStep_data he
    exact ⟨k, by rw [hstep, hk]⟩
  · obtain ⟨_, hstep⟩ := exec_programPage hi hn hl hd hj
    obtain ⟨k, hk⟩ := programPageStep_data hx
    exact ⟨k, by rw [hstep, hk]⟩

end ReadBack

/-! ### The writes of the page procedures -/

/-- E2 writes the trigger byte of the page in progress, and goes on to the erase wait (R77, R79). -/
theorem exec_eraseTrigger {s : State} {lbl : EraseLabel → Label} {d : DeviceDescriptor} {j : PageJob} (hi : Sound s)
    (hn : EraseNaming lbl) (hl : s.pc = .resume (lbl .e2Wb1)) (hd : s.desc? = some d) (hj : pageJob s = some j) :
    exec s.command s = .next
      (memWrite .register d.eraseTriggerAddress [triggerByte d j.space j.page] (fun u => u.setLabel (lbl .e3)) s) := by
  obtain ⟨_, _, hstep⟩ := exec_erasePage hi hn hl hd hj
  exact hstep

/-- P3 writes the target of the page in progress, and goes on to the program wait (R80). -/
theorem exec_pageWrite {s : State} {lbl : PageLabel → Label} {j : PageJob} (hi : Sound s) (hn : PageNaming lbl)
    (hl : s.pc = .resume (lbl .p3Wb1)) (hj : pageJob s = some j) :
    exec s.command s = .next
      (memWrite j.space (pageAddress j.page) j.target (fun u => u.setLabel (lbl .p4)) s) := by
  obtain ⟨d, -, hd, -⟩ := hi.desc_and_job hl (hn.inPageProcedure _)
  obtain ⟨_, hstep⟩ := exec_programPage hi hn hl hd hj
  exact hstep

end Sys2Proof.Safety

namespace Sys2Proof.Proofs

open Sys2Proof.Machine Sys2Proof.Safety

/-- Settles O25: a read of the right length is stored at the head of DATA. -/
theorem readBytesCompletes : Obligations.ReadBytesCompletes := by
  intro sp a n s t xs hpc hwf hread hlen
  obtain ⟨m, hstore, hm, hbytes⟩ := storeData_of_read hread hwf
  refine ⟨m, ?_, hm, hlen ▸ hbytes⟩
  rw [exec_readBytes_rb2 sp hpc, readData_of_bytes hread hlen, hstore]

/-- Settles O26: READ_PAGE stores the page as READ_BYTES does, and IS_PAGE_ERASED asks whether all of it is
zero. -/
theorem pageReadsComplete : Obligations.PageReadsComplete := by
  intro sp p s t xs hpc hwf hread hlen
  refine ⟨?_, fun hzero => ?_, fun ⟨x, hx, hne⟩ => ?_⟩
  · obtain ⟨m, hstore, hm, hbytes⟩ := storeData_of_read hread hwf
    refine ⟨m, ?_, hm, hlen ▸ hbytes⟩
    rw [exec_readPage_rb2 sp hpc, readData_of_bytes hread hlen, hstore]
  · rw [exec_isPageErased_rb2 sp hpc, readData_of_bytes hread hlen, if_pos (allZero_iff.2 hzero)]
  · have hnot : ¬ allZero xs = true := fun hzero => hne (allZero_iff.1 hzero x hx)
    rw [exec_isPageErased_rb2 sp hpc, readData_of_bytes hread hlen, if_neg hnot]

/-- Settles O23: every RB1 is one address write, and the answer picks how it goes on. -/
theorem readCommandsWriteTheAddress : Obligations.ReadCommandsWriteTheAddress := by
  refine ⟨fun i sp a s t ok hpc hi hwrite => ?_, fun s t l l' j ok hi hl hr hj hwrite => ⟨?_, ?_⟩⟩
  · rw [exec_rawRead_rb1 hpc hi, readAddress_of_answer hwrite]
    rfl
  · rw [exec_readBack_address hi hl hr hj, readAddress_of_answer hwrite]
    rfl
  · exact raise_transport_errinfo hi hl (readAfter_inPageProcedure hr).1 hj (busWrite_spec hwrite).1.status _ _ _

/-- Settles O24: every RB2 is one data read, which no bad answer lets go on to what would store it. -/
theorem readCommandsReportBadReads : Obligations.ReadCommandsReportBadReads := by
  refine ⟨fun i sp n s t hpc hi => ?_, fun s t l l' j r hi hr hl hj hread hbad => ?_⟩
  · obtain ⟨k, hstep⟩ := exec_rawRead_rb2 hpc hi
    refine ⟨fun hread => ⟨?_, (busRead_spec hread).1.data⟩,
      fun xs hlen hread => ⟨?_, (busRead_spec hread).1.data⟩⟩
    · rw [hstep, readData_of_bad hread nofun]
      rfl
    · rw [hstep, readData_of_bad hread (by rintro _ ⟨⟩; exact hlen)]
      rfl
  · obtain ⟨k, hstep⟩ := exec_readBack_data hi hr hl hj
    have hmoved := (busRead_spec hread).1
    refine ⟨?_, hmoved.data, ?_⟩
    · rw [hstep, readData_of_bad hread hbad]
    · exact raise_transport_errinfo hi hl (readAfter_inPageProcedure hr).2 hj hmoved.status _ _ _

/-- Settles O27: WRITE_BYTES, the erase trigger and the page write are each one transfer, and the answer picks how it
goes on. -/
theorem writeBytesCompletes : Obligations.WriteBytesCompletes := by
  refine ⟨fun sp a n s t ok hpc hwrite => ?_, fun s t lbl d j ok hi hn hl hd hj hwrite => ⟨?_, ?_⟩,
    fun s t lbl j ok hi hn hl hj hwrite => ⟨?_, ?_⟩⟩
  · rw [exec_writeBytes_wb1 sp hpc, State.dataSlice_zero, memWrite_of_answer hwrite]
  · rw [exec_eraseTrigger hi hn hl hd hj, memWrite_of_answer hwrite]
    rfl
  · exact raise_transport_errinfo hi hl (hn.inPageProcedure _) hj (busWrite_spec hwrite).1.status _ _ _
  · rw [exec_pageWrite hi hn hl hj, memWrite_of_answer hwrite]
    rfl
  · exact raise_transport_errinfo hi hl (hn.inPageProcedure _) hj (busWrite_spec hwrite).1.status _ _ _

end Sys2Proof.Proofs

/-! PROOFS. The page sequencer's protocol (42_page_sequencer.md): the moves of ErasePage and ProgramPage with the
event of each, from which the history of a page procedure (R84) and the exact skipped bitmap (R81, R82) are kept by
every step. -/

namespace Sys2Proof.Machine

open Sys2Proof.Safety

/-! ### The moves of ErasePage and ProgramPage -/

/-- The moves of ErasePage from one of its labels to another, each with the event of its primitive (R79). -/
inductive EraseMove (s : State) (d : DeviceDescriptor) (j : PageJob) : EraseLabel → Event → EraseLabel → Prop
  | address {l l' : EraseLabel} : eraseRead l = some l' →
      EraseMove s d j l (.write (translate j.space s.cc) [pageAddress j.page] true) l'
  | notErased {xs : List Byte} : xs.length = 16 → allZero xs = false →
      EraseMove s d j .e1Rb2 (.read (translate j.space s.cc) 16 (.bytes xs)) .e2Wb1
  | trigger : EraseMove s d j .e2Wb1 (triggerEvent s d j) .e3
  | wait : EraseMove s d j .e3 (.wait .erase) (if s.params.errataWorkaround then .e4D1 else .e5Rb1)
  | dummyWrite (ok : Bool) : EraseMove s d j .e4D1
      (.write (translate .register s.cc) (dummyBytes s.params.errataDummyPayload) ok) .e5Rb1

/-- The moves of ProgramPage from one of its labels to another, each with the event of its primitive (R80). -/
inductive PageMove (s : State) (d : DeviceDescriptor) (j : PageJob) : PageLabel → Event → PageLabel → Prop
  | firstAddress : PageMove s d j .p1Rb1 (.write (translate j.space s.cc) [pageAddress j.page] true) .p1Rb2
  | verifyAddress : PageMove s d j .p5Rb1 (.write (translate j.space s.cc) [pageAddress j.page] true) .p5Rb2
  | differs (e : Event) : PageMove s d j .p1Rb2 e (.p2 .e1Rb1)
  | erase {l l' : EraseLabel} {e : Event} : EraseMove s d j l e l' → PageMove s d j (.p2 l) e (.p2 l')
  | erased {l : EraseLabel} {xs : List Byte} : l = .e1Rb2 ∨ l = .e5Rb2 → xs.length = 16 → allZero xs = true →
      PageMove s d j (.p2 l) (.read (translate j.space s.cc) 16 (.bytes xs)) .p3Wb1
  | pageWrite : PageMove s d j .p3Wb1 (.write (translate j.space s.cc) (pageAddress j.page :: j.target) true) .p4
  | wait : PageMove s d j .p4 (.wait .program) .p5Rb1

/-- Everything a step of ErasePage from label `l` can do: wait for the transport, move to another of its labels, return
to its caller after a read of sixteen zero bytes, or raise an error (R79). -/
inductive EraseStep (s : State) (d : DeviceDescriptor) (j : PageJob) (lbl : EraseLabel → Label)
    (ret : Bool → State → State) (l : EraseLabel) : State → Prop
  | hangs : EraseStep s d j lbl ret l s
  | moves {e : Event} {u v : State} {l' : EraseLabel} : Moved e s u → SamePage u v → EraseMove s d j l e l' →
      EraseStep s d j lbl ret l (v.setLabel (lbl l'))
  | returns {xs : List Byte} {u v : State} (erased : Bool) : l = .e1Rb2 ∨ l = .e5Rb2 → xs.length = 16 →
      allZero xs = true → Moved (.read (translate j.space s.cc) 16 (.bytes xs)) s u → SamePage u v →
      EraseStep s d j lbl ret l (ret erased v)
  | raises (err : Error) (v : State) : EraseStep s d j lbl ret l (raise err v)

/-- Everything a step of ProgramPage from label `l` can do: wait for the transport, move to another of its labels,
return to its caller, or raise an error (R80). -/
inductive PageStep (s : State) (d : DeviceDescriptor) (j : PageJob) (lbl : PageLabel → Label)
    (ret : Bool → Bool → State → State) (l : PageLabel) : State → Prop
  | hangs : PageStep s d j lbl ret l s
  | moves {e : Event} {u v : State} {l' : PageLabel} : Moved e s u → SamePage u v → PageMove s d j l e l' →
      PageStep s d j lbl ret l (v.setLabel (lbl l'))
  | returns {e : Event} {u v : State} (prog erased : Bool) : Moved e s u → SamePage u v →
      PageStep s d j lbl ret l (ret prog erased v)
  | raises (err : Error) (v : State) : PageStep s d j lbl ret l (raise err v)

section Moves

variable {s : State} {d : DeviceDescriptor} {j : PageJob}

section Primitives

variable {P : State → Prop} (hangs : P s) (raises : ∀ e v, P (raise e v))
include hangs raises

/-- What holds of the state as it was, after an error, and where RB1 goes on, holds after RB1. -/
theorem readAddress_induction {sp : Space} {a : Byte} {next : Label}
    (goes : ∀ u, Moved (.write (translate sp s.cc) [a] true) s u → P (u.setLabel next)) :
    P (readAddress sp a next s) := by
  obtain ⟨-, h⟩ | ⟨u, hm, h⟩ | ⟨u, -, h⟩ := readAddress_cases sp a next s <;> rw [h]
  · exact hangs
  · exact goes u hm
  · exact raises _ _

/-- What holds of the state as it was, after an error, and where RB2 goes on, holds after RB2. -/
theorem readData_induction {sp : Space} {n : Nat} {k : List Byte → State → State}
    (goes : ∀ xs u, Moved (.read (translate sp s.cc) n (.bytes xs)) s u → xs.length = n → P (k xs u)) :
    P (readData sp n k s) := by
  obtain ⟨-, h⟩ | ⟨u, xs, hm, hlen, -, h⟩ | ⟨u, xs, -, -, h⟩ | ⟨u, -, h⟩ := readData_cases sp n k s <;> rw [h]
  · exact hangs
  · exact goes xs u hm hlen
  · exact raises _ _
  · exact raises _ _

/-- What holds of the state as it was, after an error, and where WB1 goes on, holds after WB1. -/
theorem memWrite_induction {sp : Space} {a : Byte} {xs : List Byte} {k : State → State}
    (goes : ∀ u, Moved (.write (translate sp s.cc) (a :: xs) true) s u → P (k u)) : P (memWrite sp a xs k s) := by
  obtain ⟨-, h⟩ | ⟨u, hm, h⟩ | ⟨u, -, h⟩ := memWrite_cases sp a xs k s <;> rw [h]
  · exact hangs
  · exact goes u hm
  · exact raises _ _

end Primitives

theorem eraseStep_of_erasePageStep (standalone : Bool) (lbl : EraseLabel → Label) (ret : Bool → State → State)
    (l : EraseLabel) :
    EraseStep s d j lbl ret l (erasePageStep d j.space j.page standalone lbl ret l s) := by
  cases l with
  | e1Rb1 | e5Rb1 => exact readAddress_induction .hangs .raises fun u hm => .moves hm (.refl u) (.address rfl)
  | e1Rb2 =>
    refine readData_induction .hangs .raises fun xs u hm hlen => ?_
    split
    · rename_i hz
      exact .returns _ (.inl rfl) hlen hz hm (samePage_setBuf_setPState ..)
    · rename_i hz
      exact .moves hm (samePage_setBuf_setPState ..) (.notErased hlen (eq_false_of_ne_true hz))
  | e2Wb1 => exact memWrite_induction .hangs .raises fun u hm => .moves hm (.refl u) .trigger
  | e3 =>
    rw [erasePageStep, ← apply_ite lbl]
    exact .moves (busWait_moved .erase s) (.refl _) .wait
  | e4D1 =>
    obtain ⟨-, h⟩ | ⟨u, ok, hm, h⟩ := errata_cases (lbl .e5Rb1) s <;> rw [erasePageStep, h]
    · exact .hangs
    · exact .moves hm (.refl u) (.dummyWrite ok)
  | e5Rb2 =>
    refine readData_induction .hangs .raises fun xs u hm hlen => ?_
    split
    · rename_i hz
      exact .returns _ (.inr rfl) hlen hz hm (samePage_setBuf_setPState ..)
    · exact .raises _ _

theorem pageStep_of_programPageStep (lbl : PageLabel → Label) (ret : Bool → Bool → State → State) (l : PageLabel) :
    PageStep s d j lbl ret l (programPageStep d j.space j.page j.target lbl ret l s) := by
  cases l with
  | p1Rb1 => exact readAddress_induction .hangs .raises fun u hm => .moves hm (.refl u) .firstAddress
  | p5Rb1 => exact readAddress_induction .hangs .raises fun u hm => .moves hm (.refl u) .verifyAddress
  | p1Rb2 =>
    refine readData_induction .hangs .raises fun xs u hm _ => ?_
    split
    · exact .returns _ _ hm (samePage_setBuf_setPState ..)
    · obtain ⟨-, h⟩ | ⟨-, h⟩ := enterErasePage_cases d j.space j.page (fun e => lbl (.p2 e)) (u.setBuf xs) <;> rw [h]
      · exact .moves hm (samePage_setBuf ..) (.differs _)
      · exact .raises _ _
  | p2 l =>
    have h := eraseStep_of_erasePageStep (s := s) (d := d) (j := j) false (fun e => lbl (.p2 e))
      (fun erased u =>
        ((u.setLocals { u.locals with erasedNow := erased }).setPState .programming).setLabel (lbl .p3Wb1)) l
    rw [programPageStep]
    generalize erasePageStep _ _ _ _ _ _ _ _ = t at h ⊢
    cases h with
    | hangs => exact .hangs
    | moves hm hv hmove => exact .moves hm hv (.erase hmove)
    | returns erased hl hlen hz hm hv =>
      refine .moves hm ?_ (.erased hl hlen hz)
      obtain ⟨_, _, _, rfl⟩ := hv
      exact ⟨_, _, _, rfl⟩
    | raises => exact .raises _ _
  | p3Wb1 => exact memWrite_induction .hangs .raises fun u hm => .moves hm (.refl u) .pageWrite
  | p4 => exact .moves (busWait_moved .program s) (.refl _) .wait
  | p5Rb2 =>
    refine readData_induction .hangs .raises fun xs u hm _ => ?_
    split
    · exact .returns _ _ hm (samePage_setBuf_setPState ..)
    · exact .raises _ _

end Moves

end Sys2Proof.Machine

namespace Sys2Proof.Safety

open Sys2Proof.Machine

/-! ### The history of a page procedure (R84) -/

section History

variable {s t : State} {d : DeviceDescriptor} {j : PageJob}

/-- Each move of ErasePage takes the history of the label it leaves to that of the label it comes to. -/
theorem eraseHistory_of_move {l l' : EraseLabel} {e : Event} (hmove : EraseMove s d j l e l')
    (h : eraseHistory s d j l) (hparams : t.params = s.params) (hcc : t.cc = s.cc)
    (htrace : t.trace = s.trace ++ [e]) : eraseHistory t d j l' := by
  cases hmove with
  | address hr =>
    cases l <;> cases hr <;> rw [eraseHistory, hcc, htrace] <;> exact List.suffix_append ..
  | notErased hlen hz =>
    simp only [eraseHistory, pageReadEvents, hcc, htrace]
    exact ⟨_, hlen, hz, List.suffix_append_self_iff.2 h⟩
  | trigger =>
    obtain ⟨xs, hlen, hz, hread⟩ := h
    simp only [eraseHistory, pageReadEvents, triggerEvent, hcc, htrace]
    exact ⟨xs, hlen, hz, List.suffix_append_self_iff.2 hread⟩
  | wait =>
    obtain ⟨_, -, -, htrigger⟩ := h
    have hwait : [triggerEvent s d j, .wait .erase] <:+ s.trace ++ [.wait .erase] :=
      List.suffix_append_self_iff.2 ((List.suffix_append ..).trans htrigger)
    split
    · rename_i hw
      rw [eraseHistory, hparams, triggerEvent, hcc, htrace]
      exact ⟨hw, hwait⟩
    · rename_i hw
      rw [eraseHistory, hparams, if_neg hw, triggerEvent, hcc, htrace]
      exact hwait
  | dummyWrite ok =>
    obtain ⟨hw, hwait⟩ := h
    rw [eraseHistory, hparams, if_pos hw, triggerEvent, hcc, htrace]
    exact ⟨ok, List.suffix_append_self_iff.2 hwait⟩

/-- Each move of ProgramPage takes the history of the label it leaves to that of the label it comes to. -/
theorem pageHistory_of_move {l l' : PageLabel} {e : Event} (hmove : PageMove s d j l e l')
    (h : pageHistory s d j l) (hparams : t.params = s.params) (hcc : t.cc = s.cc)
    (htrace : t.trace = s.trace ++ [e]) : pageHistory t d j l' := by
  cases hmove with
  | firstAddress | verifyAddress =>
    rw [pageHistory, hcc, htrace]
    exact List.suffix_append ..
  | differs => trivial
  | erase hmove => exact eraseHistory_of_move hmove h hparams hcc htrace
  | erased hl hlen hz =>
    simp only [pageHistory, pageReadEvents, hcc, htrace]
    obtain rfl | rfl := hl <;> exact ⟨_, hlen, hz, List.suffix_append_self_iff.2 h⟩
  | pageWrite =>
    obtain ⟨xs, hlen, hz, hread⟩ := h
    simp only [pageHistory, pageReadEvents, hcc, htrace]
    exact ⟨xs, hlen, hz, List.suffix_append_self_iff.2 hread⟩
  | wait =>
    obtain ⟨_, -, -, hwrite⟩ := h
    rw [pageHistory, hcc, htrace]
    exact List.suffix_append_self_iff.2 ((List.suffix_append ..).trans hwrite)

/-- Outside the page procedures there is no history to keep. -/
theorem History.of_outside (h : ∀ l, t.pc = .resume l → inPageProcedure l = false) : History t := by
  intro d j _ _
  split
  case h_4 => trivial
  all_goals
    rename_i hpc
    cases h _ hpc

theorem History.of_idle (h : t.pc = .idle) : History t := .of_outside fun _ hl => nomatch h.symm.trans hl

theorem History.of_erase {l : EraseLabel} (hd : t.desc? = some d) (hj : pageJob t = some j)
    (hpc : t.pc = .resume (.erase l)) (hw : pageWritable d j.space j.page = true) (hh : eraseHistory t d j l) :
    History t := by
  intro d' j' hd' hj'
  cases hd.symm.trans hd'
  cases hj.symm.trans hj'
  rw [hpc]
  exact ⟨hw, hh⟩

theorem History.of_page {lbl : PageLabel → Label} {l : PageLabel} (hn : PageNaming lbl) (hd : t.desc? = some d)
    (hj : pageJob t = some j) (hpc : t.pc = .resume (lbl l)) (hw : pageWritable d j.space j.page = true)
    (hh : pageHistory t d j l) : History t := by
  intro d' j' hd' hj'
  cases hd.symm.trans hd'
  cases hj.symm.trans hj'
  obtain rfl | rfl := hn <;> rw [hpc] <;> exact ⟨hw, hh⟩

theorem History.at_erase {l : EraseLabel} (h : History s) (hd : s.desc? = some d) (hj : pageJob s = some j)
    (hl : s.pc = .resume (.erase l)) : pageWritable d j.space j.page = true ∧ eraseHistory s d j l := by
  have h := h d j hd hj
  rwa [hl] at h

theorem History.at_page {lbl : PageLabel → Label} {l : PageLabel} (h : History s) (hn : PageNaming lbl)
    (hd : s.desc? = some d) (hj : pageJob s = some j) (hl : s.pc = .resume (lbl l)) :
    pageWritable d j.space j.page = true ∧ pageHistory s d j l := by
  have h := h d j hd hj
  obtain rfl | rfl := hn <;> rwa [hl] at h

/-- A step of ErasePage keeps the history, if what its caller does with the answer has one. -/
theorem History.of_eraseStep {ret : Bool → State → State} {l : EraseLabel} (h : History s) (hd : s.desc? = some d)
    (hj : pageJob s = some j) (hl : s.pc = .resume (.erase l)) (hstep : EraseStep s d j .erase ret l t)
    (hret : ∀ erased v, History (ret erased v)) : History t := by
  cases hstep with
  | hangs => exact h
  | moves hm hv hmove =>
    obtain ⟨hw, hh⟩ := h.at_erase hd hj hl
    obtain ⟨_, _, _, rfl⟩ := hm
    obtain ⟨_, _, _, rfl⟩ := hv
    exact .of_erase hd hj rfl hw (eraseHistory_of_move hmove hh rfl rfl rfl)
  | returns => exact hret _ _
  | raises => exact .of_idle rfl

/-- A step of ProgramPage keeps the history, if what its caller does with the answer has one. -/
theorem History.of_pageStep {lbl : PageLabel → Label} {ret : Bool → Bool → State → State} {l : PageLabel}
    (h : History s) (hn : PageNaming lbl) (hd : s.desc? = some d) (hj : pageJob s = some j)
    (hl : s.pc = .resume (lbl l)) (hstep : PageStep s d j lbl ret l t)
    (hret : ∀ e u v prog erased, Moved e s u → SamePage u v → t = ret prog erased v → History t) : History t := by
  cases hstep with
  | hangs => exact h
  | moves hm hv hmove =>
    obtain ⟨hw, hh⟩ := h.at_page hn hd hj hl
    obtain ⟨_, _, _, rfl⟩ := hm
    obtain ⟨_, _, _, rfl⟩ := hv
    exact .of_page hn hd hj rfl hw (pageHistory_of_move hmove hh rfl rfl rfl)
  | returns prog erased hm hv => exact hret _ _ _ prog erased hm hv rfl
  | raises => exact .of_idle rfl

end History

/-! ### The loop of ProgramPages (R81) -/

section Loop

variable {s t v : State} {d : DeviceDescriptor} {sp : Space} {a : Page} {np k i : Nat}

/-- The programmed bitmap after a page (R81). -/
def programmedAfter (prog : Bool) (v : State) : BitVec 16 :=
  if prog then addBit v.locals.programmed v.locals.p else v.locals.programmed

/-- The state in which ProgramPages, after a page, enters its loop again: the page noted, and RESULT rewritten (R81,
R82). -/
def notePage (prog : Bool) (v : State) : State :=
  { v with
    result := resultBitmaps (programmedAfter prog v) v.locals.skipped
    locals := { v.locals with programmed := programmedAfter prog v } }

theorem afterPage_eq_pagesLoop (prog : Bool) (v : State) :
    afterPage d sp a np prog v =
      pagesLoop d sp a (np - (v.locals.i.toNat + 1)) (v.locals.i.toNat + 1) (notePage prog v) := by
  cases prog <;> rfl

/-- Page number `i` of a range from page `a`, in numbers. -/
theorem page_add_toNat (h : a.toNat + i < 16) : (a + BitVec.ofNat 4 i).toNat = a.toNat + i := by
  rw [BitVec.toNat_add, BitVec.toNat_ofNat]
  omega

/-- Which bits skipping sets, as a range of pages. -/
theorem skipPages_skipped_range (h : a.toNat + i + k ≤ 16) (b : Nat) :
    (skipPages a k i v).locals.skipped.getLsbD b =
      (v.locals.skipped.getLsbD b || (decide (a.toNat + i ≤ b) && decide (b < a.toNat + i + k))) := by
  obtain ⟨-, -, -, -, -, -, -, -, hbits⟩ := skipPages_spec a k i v
  have hmem : (∃ j < k, b = (a + BitVec.ofNat 4 (i + j)).toNat) ↔ a.toNat + i ≤ b ∧ b < a.toNat + i + k := by
    constructor
    · rintro ⟨j, hj, rfl⟩
      rw [page_add_toNat (by omega)]
      omega
    · rintro ⟨hab, hbk⟩
      exact ⟨b - (a.toNat + i), by omega, by rw [page_add_toNat (by omega)]; omega⟩
  rw [hbits b]
  simp only [hmem, Bool.decide_and]

/-- The loop of ProgramPages inside a command ends the command, or comes to stand at the first label of a writable
page of the range, past read-only ones. -/
theorem pagesLoop_stands (ht : pagesLoop d sp a k i v = t) (hi : Sound t) (hd : v.desc? = some d)
    (hr : programRange d v.command = some (sp, a, np)) (hk : i + k ≤ np) :
    t.pc = .idle ∨ ∃ n target, t.pc = .resume (.pages .p1Rb1) ∧ t.desc? = some d ∧
      pageRange t = some (a.toNat, np) ∧ pageJob t = some ⟨sp, t.locals.p, target⟩ ∧
      a.toNat + i + n < 16 ∧ t.locals.p.toNat = a.toNat + i + n ∧ pageWritable d sp t.locals.p = true ∧
      (∀ j < n, pageWritable d sp (a + BitVec.ofNat 4 (i + j)) = false) ∧
      t.locals.skipped = (skipPages a n i v).locals.skipped := by
  have hsilent := silent_pagesLoop d sp a k i v
  obtain ⟨n, -, hro, ⟨-, he⟩ | ⟨hn, hw, he⟩⟩ := pagesLoop_cases d sp a k i v
  · exact .inl (by rw [← ht, he]; rfl)
  · rw [ht] at hsilent he
    have hpc : t.pc = .resume (.pages .p1Rb1) := by rw [he]; rfl
    have hp : t.locals.p = a + BitVec.ofNat 4 (i + n) := by rw [he]; rfl
    have hd' := (State.desc_congr hsilent.params hsilent.devsel).trans hd
    have hr' : programRange d t.command = some (sp, a, np) := by rw [State.command, hsilent.cmdreg]; exact hr
    obtain ⟨hrange, hle, target, hjob⟩ := pageRange_of_programRange hd' hr' (hi.label_legal _ hpc)
    refine .inr ⟨n, target, hpc, hd', hrange, hjob, by omega, ?_, hp ▸ hw, hro, by rw [he]; rfl⟩
    rw [hp, page_add_toNat (by omega)]
    omega

/-- A page that the loop begins is writable, and no transaction of it has been made. -/
theorem History.of_pagesLoop (ht : pagesLoop d sp a k i v = t) (hi : Sound t) (hd : v.desc? = some d)
    (hr : programRange d v.command = some (sp, a, np)) (hk : i + k ≤ np) : History t := by
  obtain hidle | ⟨n, target, hpc, hd', -, hjob, -, -, hw, -⟩ := pagesLoop_stands ht hi hd hr hk
  · exact .of_idle hidle
  · exact .of_page (lbl := .pages) (.inr rfl) hd' hjob hpc hw trivial

/-- The skipped bitmap of the pages of a range from `a` up to `m` that are not writable. -/
def SkippedUpTo (d : DeviceDescriptor) (sp : Space) (a m : Nat) (skipped : BitVec 16) : Prop :=
  ∀ b : Page, skipped.getLsbD b.toNat =
    (decide (a ≤ b.toNat) && decide (b.toNat < m) && !pageWritable d sp b)

/-- Outside the page procedures there is no page in progress. -/
theorem SkippedExact.of_outside (h : ∀ l, t.pc = .resume l → inPageProcedure l = false) : SkippedExact t :=
  fun _ _ _ _ _ _ _ hl => nomatch h _ hl

theorem SkippedExact.of_idle (h : t.pc = .idle) : SkippedExact t := .of_outside fun _ hl => nomatch h.symm.trans hl

/-- The loop skips read-only pages only, so the bitmap stays exact. -/
theorem SkippedExact.of_pagesLoop (ht : pagesLoop d sp a k i v = t) (hi : Sound t) (hd : v.desc? = some d)
    (hr : programRange d v.command = some (sp, a, np)) (hk : i + k ≤ np)
    (hv : SkippedUpTo d sp a.toNat (a.toNat + i) v.locals.skipped) : SkippedExact t := by
  intro d' j r l hd' hj hrange hpc b
  obtain hidle | ⟨n, target, -, hdesc, hrange', hjob, hle, hp, -, hro, hsk⟩ := pagesLoop_stands ht hi hd hr hk
  · cases hpc.symm.trans hidle
  cases hdesc.symm.trans hd'
  cases hrange'.symm.trans hrange
  cases hjob.symm.trans hj
  rw [hsk, skipPages_skipped_range (by omega), hv b, hp]
  have hnew (hlow : a.toNat + i ≤ b.toNat) (hhigh : b.toNat < a.toNat + i + n) : pageWritable d sp b = false := by
    have hb : a + BitVec.ofNat 4 (i + (b.toNat - (a.toNat + i))) = b := by
      apply BitVec.eq_of_toNat_eq
      rw [page_add_toNat (by omega)]
      omega
    exact hb ▸ hro (b.toNat - (a.toNat + i)) (by omega)
  cases hw : pageWritable d sp b with
  | false =>
    rw [Bool.eq_iff_iff]
    simp only [Bool.not_false, Bool.and_true, Bool.or_eq_true, Bool.and_eq_true, decide_eq_true_eq]
    omega
  | true =>
    have hout : ¬(a.toNat + i ≤ b.toNat ∧ b.toNat < a.toNat + i + n) := fun ⟨hlow, hhigh⟩ =>
      nomatch hw.symm.trans (hnew hlow hhigh)
    simpa using hout

end Loop

/-! ### The history and the skipped bitmap, kept by a step of a command -/

section Commands

variable {s t : State} {d : DeviceDescriptor} {sp : Space} {a : Page} {np : Nat}

/-- A step of a command with ProgramPages: an error or ProgramPages entered in its first step, and else a step of
ProgramPage for the page of its job (R89, R94). -/
theorem exec_programRange (hd : s.desc? = some d) (hr : programRange d s.command = some (sp, a, np))
    (h : exec s.command s = .next t) :
    (s.pc = .resume .start ∧
      ((∃ e, t = raise e s) ∨ ∃ k, t = enterProgramPages d sp a np (s.setLocals k))) ∨
    ∃ l j, s.pc = .resume (.pages l) ∧ pageJob s = some j ∧
      PageStep s d j .pages (fun prog _ u => afterPage d sp a np prog u) l t := by
  cases hc : s.command <;> rw [hc] at hr <;> cases hr <;> rw [hc] at h
  case programPages start n =>
    simp only [exec, execProgramPages] at h
    split at h
    · rename_i hl
      refine .inl ⟨hl, ?_⟩
      split at h
      · cases h
        exact .inl ⟨_, rfl⟩
      · rw [withDesc_of_some hd] at h
        cases h
        exact .inr ⟨s.locals, rfl⟩
    · rename_i l hl
      rw [withDesc_of_some hd] at h
      cases h
      refine .inr ⟨l, ⟨sp, s.locals.p, s.dataSlice (16 * s.locals.i.toNat) 16⟩, hl, ?_,
        pageStep_of_programPageStep ..⟩
      rw [pageJob, hc]
    · cases h
  case programControlCode n =>
    simp only [exec, execProgramControlCode] at h
    split at h
    · rename_i hl
      refine .inl ⟨hl, ?_⟩
      split at h
      · cases h
        exact .inl ⟨_, rfl⟩
      · rw [withDesc_of_some hd] at h
        cases h
        exact .inr ⟨_, rfl⟩
    · rename_i l hl
      rw [withDesc_of_some hd] at h
      cases h
      refine .inr ⟨l, ⟨.nvm, s.locals.p, (s.locals.img.drop (16 * s.locals.i.toNat)).take 16⟩, hl, ?_,
        pageStep_of_programPageStep ..⟩
      rw [pageJob, hc]
    · cases h

/-- ProgramPages from its beginning begins a writable page past read-only ones, if it does not end. -/
theorem enterProgramPages_keeps {k : Locals} (hd : s.desc? = some d)
    (hr : programRange d s.command = some (sp, a, np)) (ht : enterProgramPages d sp a np (s.setLocals k) = t)
    (hi : Sound t) : History t ∧ SkippedExact t := by
  obtain ⟨p, -, -, he⟩ | ⟨-, he⟩ := enterProgramPages_cases d sp a np (s.setLocals k) <;> rw [ht] at he
  · have hidle : t.pc = .idle := by rw [he]; rfl
    exact ⟨.of_idle hidle, .of_idle hidle⟩
  · have hk : 0 + np ≤ np := (Nat.zero_add _).le
    refine ⟨.of_pagesLoop he.symm hi hd hr hk, .of_pagesLoop he.symm hi hd hr hk fun b => ?_⟩
    simp

/-- A writable page is not among the skipped, so the bitmap up to it is the bitmap up to the page after it. -/
theorem SkippedUpTo.succ {p : Page} {m : Nat} {skipped : BitVec 16} (h : SkippedUpTo d sp m p.toNat skipped)
    (hw : pageWritable d sp p = true) : SkippedUpTo d sp m (p.toNat + 1) skipped := by
  intro b
  rw [h b]
  by_cases hb : b = p
  · subst hb
    simp [hw]
  · have hne : b.toNat ≠ p.toNat := fun he => hb (BitVec.eq_of_toNat_eq he)
    simp only [show b.toNat < p.toNat + 1 ↔ b.toNat < p.toNat by omega]

/-- After a page ProgramPages begins the next writable page, past read-only ones, if it does not end. -/
theorem afterPage_keeps {e : Event} {u v : State} {l : PageLabel} {prog : Bool} (hi : Sound s)
    (hl : s.pc = .resume (.pages l)) (hd : s.desc? = some d) (hr : programRange d s.command = some (sp, a, np))
    (hm : Moved e s u) (hv : SamePage u v) (ht : afterPage d sp a np prog v = t) (hit : Sound t) :
    History t ∧ (History s → SkippedExact s → SkippedExact t) := by
  obtain ⟨hrange, hle, target, hjob⟩ := pageRange_of_programRange hd hr (hi.label_legal _ hl)
  obtain ⟨r, hrange', hlt, hp⟩ := hi.page_in_range l hl
  cases hrange.symm.trans hrange'
  obtain ⟨_, _, _, rfl⟩ := hm
  obtain ⟨_, _, _, rfl⟩ := hv
  rw [afterPage_eq_pagesLoop] at ht
  have hk : s.locals.i.toNat + 1 + (np - (s.locals.i.toNat + 1)) ≤ np := by omega
  refine ⟨.of_pagesLoop ht hit hd hr hk, fun hh hx => .of_pagesLoop ht hit hd hr hk ?_⟩
  obtain ⟨hw, -⟩ := hh.at_page (lbl := .pages) (.inr rfl) hd hjob hl
  have hbefore : SkippedUpTo d sp a.toNat s.locals.p.toNat s.locals.skipped := hx d _ _ l hd hjob hrange hl
  rw [← Nat.add_assoc, ← hp]
  exact hbefore.succ hw

/-- A step of a command with ProgramPages keeps the history. -/
theorem History.of_programRange (hh : History s) (hi : Sound s) (hd : s.desc? = some d)
    (hr : programRange d s.command = some (sp, a, np)) (h : exec s.command s = .next t) (hit : Sound t) :
    History t := by
  obtain ⟨-, ⟨e, rfl⟩ | ⟨k, ht⟩⟩ | ⟨l, j, hl, hj, hstep⟩ := exec_programRange hd hr h
  · exact .of_idle rfl
  · obtain ⟨hhist, -⟩ := enterProgramPages_keeps hd hr ht.symm hit
    exact hhist
  · refine hh.of_pageStep (.inr rfl) hd hj hl hstep fun e u v prog erased hm hv ht => ?_
    obtain ⟨hhist, -⟩ := afterPage_keeps hi hl hd hr hm hv ht.symm hit
    exact hhist

/-- A step of a command with ProgramPages keeps the skipped bitmap exact. -/
theorem SkippedExact.of_programRange (hx : SkippedExact s) (hh : History s) (hi : Sound s) (hd : s.desc? = some d)
    (hr : programRange d s.command = some (sp, a, np)) (h : exec s.command s = .next t) (hit : Sound t) :
    SkippedExact t := by
  obtain ⟨-, ⟨e, rfl⟩ | ⟨k, ht⟩⟩ | ⟨l, j, hl, hj, hstep⟩ := exec_programRange hd hr h
  · exact .of_idle rfl
  · obtain ⟨-, hexact⟩ := enterProgramPages_keeps hd hr ht.symm hit
    exact hexact
  · cases hstep with
    | hangs => exact hx
    | moves hm hv hmove =>
      obtain ⟨_, _, _, rfl⟩ := hm
      obtain ⟨_, _, _, rfl⟩ := hv
      intro d' j' r l' hd' hj' hrange _
      exact hx d' j' r l hd' hj' hrange hl
    | returns prog erased hm hv =>
      obtain ⟨-, hexact⟩ := afterPage_keeps hi hl hd hr hm hv rfl hit
      exact hexact hh hx
    | raises => exact .of_idle rfl

/-- A step of ERASE_PAGE keeps the history (R87). -/
theorem History.of_erasePage {page : Byte} (hh : History s) (hc : s.command = .erasePage sp page)
    (h : exec (.erasePage sp page) s = .next t) : History t := by
  have hjob {u : State} (hu : u.cmdreg = s.cmdreg) : pageJob u = some ⟨sp, nibble page, []⟩ := by
    rw [pageJob, State.command, hu, ← State.command, hc]
  simp only [exec, execErasePage] at h
  split at h
  · split at h
    · cases h
      exact .of_idle rfl
    · obtain ⟨d, hd, rfl⟩ := withDesc_eq_next.1 h
      obtain ⟨hw, he⟩ | ⟨-, he⟩ := enterErasePage_cases d sp (nibble page) .erase (beginPage sp (nibble page) s) <;>
        rw [he]
      · exact .of_erase hd (hjob rfl) rfl hw trivial
      · exact .of_idle rfl
  · rename_i l hl
    obtain ⟨d, hd, rfl⟩ := withDesc_eq_next.1 h
    exact hh.of_eraseStep hd (hjob rfl) hl (eraseStep_of_erasePageStep ..) fun _ _ => .of_idle rfl
  · cases h

/-- A step of PROGRAM_PAGE keeps the history (R88). -/
theorem History.of_programPage {page : Byte} (hh : History s) (hc : s.command = .programPage sp page)
    (h : exec (.programPage sp page) s = .next t) : History t := by
  have hjob {u : State} (hu : u.cmdreg = s.cmdreg) :
      pageJob u = some ⟨sp, nibble page, u.dataSlice 0 16⟩ := by
    rw [pageJob, State.command, hu, ← State.command, hc]
  simp only [exec, execProgramPage] at h
  split at h
  · split at h
    · cases h
      exact .of_idle rfl
    · obtain ⟨d, hd, rfl⟩ := withDesc_eq_next.1 h
      obtain ⟨hw, he⟩ | ⟨-, he⟩ := enterProgramPage_cases d sp (nibble page) .page s <;> rw [he]
      · exact .of_page (.inl rfl) hd (hjob rfl) rfl hw trivial
      · exact .of_idle rfl
  · rename_i l hl
    obtain ⟨d, hd, rfl⟩ := withDesc_eq_next.1 h
    refine hh.of_pageStep (.inl rfl) hd (hjob rfl) hl (pageStep_of_programPageStep ..)
      fun _ _ _ _ _ _ _ ht => ?_
    exact ht ▸ .of_idle rfl
  · cases h

/-- The four commands with a page procedure (R87 to R89, R94). -/
theorem pageJob_cases {j : PageJob} (hj : pageJob s = some j) (d : DeviceDescriptor) :
    (∃ sp page, s.command = .erasePage sp page) ∨ (∃ sp page, s.command = .programPage sp page) ∨
      ∃ sp a np, programRange d s.command = some (sp, a, np) := by
  unfold pageJob at hj
  split at hj <;> rename_i hc
  · exact .inl ⟨_, _, hc⟩
  · exact .inr (.inl ⟨_, _, hc⟩)
  · exact .inr (.inr ⟨_, _, _, by rw [hc]; rfl⟩)
  · exact .inr (.inr ⟨_, _, _, by rw [hc]; rfl⟩)
  · cases hj

/-- A command with a range of pages has a ProgramPages. -/
theorem programRange_of_pageRange {r : Nat × Nat} (hr : pageRange s = some r) (d : DeviceDescriptor) :
    ∃ sp a np, programRange d s.command = some (sp, a, np) := by
  unfold pageRange at hr
  split at hr <;> rename_i hc
  · exact ⟨_, _, _, by rw [hc]; rfl⟩
  · exact ⟨_, _, _, by rw [hc]; rfl⟩
  · cases hr

theorem command_of_exec {i : Instr} (h : exec i s = .next t) : t.command = s.command := by
  obtain ⟨-, hcmdreg, -⟩ := Proofs.commandsLeaveTheSession _ _ _ h
  exact congrArg decodeWord hcmdreg

theorem History.of_exec (hh : History s) (hi : Sound s) (h : exec s.command s = .next t) (hit : Sound t) :
    History t := by
  cases hj : pageJob t with
  | none => exact fun _ _ _ hj' => nomatch hj.symm.trans hj'
  | some j =>
    obtain ⟨d, hd, -⟩ := State.desc_isSome hi.devsel_lt
    obtain ⟨sp, page, hc⟩ | ⟨sp, page, hc⟩ | ⟨sp, a, np, hr⟩ := pageJob_cases hj d
    · rw [command_of_exec h] at hc
      exact hh.of_erasePage hc (hc ▸ h)
    · rw [command_of_exec h] at hc
      exact hh.of_programPage hc (hc ▸ h)
    · rw [command_of_exec h] at hr
      exact hh.of_programRange hi hd hr h hit

theorem SkippedExact.of_exec (hx : SkippedExact s) (hh : History s) (hi : Sound s) (h : exec s.command s = .next t)
    (hit : Sound t) : SkippedExact t := by
  intro d' j r l hd' hj hrange hl
  obtain ⟨d, hd, -⟩ := State.desc_isSome hi.devsel_lt
  obtain ⟨sp, a, np, hr⟩ := programRange_of_pageRange hrange d
  rw [command_of_exec h] at hr
  exact hx.of_programRange hh hi hd hr h hit d' j r l hd' hj hrange hl

end Commands

/-! ### From a step of a command to a step of the machine -/

section Step

variable {s t : State}

/-- `t` is `s` but for OVERRUN, what the host has read, the count of free bytes and the turns: what the host moves while
a command runs. -/
structure HostSide (s t : State) : Prop where
  eq : ∃ ov n w sch,
    t = { s with status := { s.status with overrun := ov }, draws := n, hostRead := w, schedule := sch }

/-- A host move from a sound state leaves a command running as it was, or leaves no command past its first step. -/
theorem hostSide_or_outside (hi : Sound s) {m : HostMove} (hw : (m.waits && s.status.busy) = false)
    (h : hostMove m s = .next t) : HostSide s t ∨ ∀ l, t.pc = .resume l → inPageProcedure l = false := by
  have haccept (w : Word) : ∀ l, (accept w s).pc = .resume l → inPageProcedure l = false := by
    rintro _ ⟨⟩
    rfl
  have hdata (hb : s.status.busy = false) (m : Memory) :
      ∀ l, (s.setData m).pc = .resume l → inPageProcedure l = false :=
    fun l hl => nomatch (hi.idle_iff.2 hb).symm.trans hl
  cases m with
  | write off w =>
    obtain rfl | ⟨-, rfl⟩ | ⟨-, -, rfl⟩ | ⟨k, hb, -, rfl⟩ := hostWrite_cases h
    · exact .inl ⟨_, _, _, _, rfl⟩
    · exact .inl ⟨_, _, _, _, rfl⟩
    · exact .inr (haccept w)
    · exact .inr (hdata hb _)
  | read off =>
    obtain ⟨r, n, rfl⟩ := hostReadMove_spec h
    exact .inl ⟨_, _, _, _, rfl⟩
  | reset d cc =>
    obtain ⟨-, _, _, -, -, rfl⟩ := controllerReset_spec h
    exact .inr nofun
  | directive index bytes =>
    simp only [hostMove, directive] at h
    split at h <;> cases h
    exact .inr (hdata hw _)
  | command w =>
    cases h
    exact .inr (haccept w)

/-- What does not depend on the host's side, holds outside the page procedures, and is kept by every step of a command
from a sound state, is kept by every step of the machine. -/
theorem step_keeps {P : State → Prop} (hside : ∀ {s t}, HostSide s t → P s → P t)
    (hout : ∀ {t : State}, (∀ l, t.pc = .resume l → inPageProcedure l = false) → P t)
    (hexec : ∀ {s t}, Sound s → Sound t → P s → exec s.command s = .next t → P t) (hi : Sound s) (hp : P s)
    (h : step s = .next t) : P t := by
  obtain ⟨sch, he⟩ | ⟨m, rest, -, hw, he⟩ := step_cases s <;> rw [he] at h
  · have hi' := hi.hostSide s.status.overrun s.draws s.hostRead sch
    have hp' := hside (t := { s with schedule := sch }) ⟨_, _, _, _, rfl⟩ hp
    have hit := hi'.of_sequencerStep h
    unfold sequencerStep at h
    split at h
    · cases h
      exact hp'
    · exact hexec hi' hit hp' h
  · have hi' := hi.hostSide s.status.overrun s.draws s.hostRead rest
    have hp' := hside (t := { s with schedule := rest }) ⟨_, _, _, _, rfl⟩ hp
    obtain hs | ho := hostSide_or_outside hi' hw h
    · exact hside hs hp'
    · exact hout ho

theorem History.hostSide (hh : History s) (hs : HostSide s t) : History t := by
  obtain ⟨_, _, _, _, rfl⟩ := hs
  exact hh

theorem SkippedExact.hostSide (hx : SkippedExact s) (hs : HostSide s t) : SkippedExact t := by
  obtain ⟨_, _, _, _, rfl⟩ := hs
  exact hx

end Step

end Sys2Proof.Safety

namespace Sys2Proof.Proofs

open Sys2Proof.Machine Sys2Proof.Safety

/-- Settles O40: each move of a page procedure adds the event that the history of its next label asks for. -/
theorem stepKeepsPageHistory : Obligations.StepKeepsPageHistory := fun _ _ hi hh h =>
  step_keeps (fun hs hh => hh.hostSide hs) History.of_outside (fun hi hit hh h => hh.of_exec hi h hit) hi hh h

/-- Settles O42, beside the history: the loop of ProgramPages passes read-only pages only, and the page in progress is
writable. -/
theorem stepKeepsSkippedExact : Obligations.StepKeepsSkippedExact := by
  intro s t hi hh hx h
  have hboth : History t ∧ SkippedExact t :=
    step_keeps (P := fun s => History s ∧ SkippedExact s) (fun hs ⟨hh, hx⟩ => ⟨hh.hostSide hs, hx.hostSide hs⟩)
      (fun ho => ⟨.of_outside ho, .of_outside ho⟩)
      (fun hi hit ⟨hh, hx⟩ h => ⟨hh.of_exec hi h hit, hx.of_exec hh hi h hit⟩) hi ⟨hh, hx⟩ h
  obtain ⟨-, hexact⟩ := hboth
  exact hexact

end Sys2Proof.Proofs

/-! PROOFS. How the commands of the page sequencer begin and end: the erase trigger byte (R77), IS_PAGE_WRITABLE
(R85), the first step of ERASE_PAGE and PROGRAM_PAGE (R87, R88), what each of their read-backs leads to (R79, R80),
and the page write (R84). -/

namespace Sys2Proof.Machine

open Sys2Proof.Safety

/-! ### The erase trigger byte -/

/-- A mask and a byte whose low five bits are those the mask leaves free meet in no bit (R30). -/
theorem mask_and_low {m x : Byte} (hm : m &&& 0x1F#8 = 0) (hx : x &&& 0x1F#8 = x) : m &&& x = 0 := by
  rw [← hx, BitVec.and_comm x, ← BitVec.and_assoc, hm]
  exact BitVec.zero_and

/-- EEPROM select and page lie in the low five bits, and meet in no bit (R77). -/
theorem selectAndPage (sp : Space) (p : Page) :
    ((if sp = .eeprom then (0x10 : Byte) else 0x00) ||| p.setWidth 8).toNat =
      (if sp = .eeprom then 16 else 0) + p.toNat ∧
    ((if sp = .eeprom then (0x10 : Byte) else 0x00) ||| p.setWidth 8) &&& 0x1F#8 =
      ((if sp = .eeprom then (0x10 : Byte) else 0x00) ||| p.setWidth 8) := by
  revert p
  cases sp <;> decide

/-- A mask without low bits is a multiple of 32 (R30). -/
theorem mask_mod {m : Byte} (hm : m &&& 0x1F#8 = 0) : m.toNat % 32 = 0 := by
  have h := congrArg BitVec.toNat hm
  rw [BitVec.toNat_and] at h
  exact (Nat.and_two_pow_sub_one_eq_mod m.toNat 5).symm.trans h

/-! ### Writability and the first step -/

theorem pageWritable_iff {d : DeviceDescriptor} {sp : Space} {p : Page} :
    pageWritable d sp p = true ↔ ¬(sp = .nvm ∧ p ∈ d.readOnlyNvmPages) := by
  rw [← pageWritable_eq_false, Bool.not_eq_false]

theorem allZero_eq_false {xs : List Byte} : allZero xs = false ↔ ∃ x ∈ xs, x ≠ 0 := by
  rw [← Bool.not_eq_true, allZero_iff]
  simp

/-- The operands of a page command that pass its check (R87, R88). -/
theorem badPage_eq_false {sp : Space} {p : Byte} (hsp : sp ≠ .register) (hp : p.toNat ≤ 15) :
    badPage sp p = false := by
  rw [← Bool.not_eq_true, badPage_iff]
  exact not_or.2 ⟨hsp, Nat.not_lt.2 hp⟩

section Start

variable {s : State} {d : DeviceDescriptor} (hpc : s.pc = .resume .start) (hd : s.desc? = some d) (sp : Space)
include hpc hd

theorem exec_isPageWritable_start (p : Byte) :
    exec (.isPageWritable sp p) s = .next
      (if above15 p then raise .precondition s else finish (if pageWritable d sp (nibble p) then 1 else 0) s) := by
  simp only [exec, execIsPageWritable, hpc, withDesc_of_some hd]
  split <;> rfl

theorem exec_erasePage_start (p : Byte) :
    exec (.erasePage sp p) s = .next
      (if badPage sp p then raise .precondition s
       else enterErasePage d sp (nibble p) .erase (beginPage sp (nibble p) s)) := by
  simp only [exec, execErasePage, hpc, withDesc_of_some hd]
  split <;> rfl

theorem exec_programPage_start (p : Byte) :
    exec (.programPage sp p) s = .next
      (if badPage sp p then raise .precondition s else enterProgramPage d sp (nibble p) .page s) := by
  simp only [exec, execProgramPage, hpc, withDesc_of_some hd]
  split <;> rfl

end Start

/-! ### The read-backs of ErasePage and ProgramPage -/

section ReadBacks

variable {s t : State} {sp : Space} {xs : List Byte}
  (hread : busRead (translate sp s.cc) 16 s = some (.bytes xs, t)) (hlen : xs.length = 16)
include hread hlen

theorem erasePageStep_e1Rb2 (d : DeviceDescriptor) (p : Page) (standalone : Bool) (lbl : EraseLabel → Label)
    (ret : Bool → State → State) :
    erasePageStep d sp p standalone lbl ret .e1Rb2 s =
      if allZero xs then ret false ((t.setBuf xs).setPState (if standalone then .clean else .erased))
      else ((t.setBuf xs).setPState .erasing).setLabel (lbl .e2Wb1) :=
  readData_of_bytes hread hlen _

theorem erasePageStep_e5Rb2 (d : DeviceDescriptor) (p : Page) (standalone : Bool) (lbl : EraseLabel → Label)
    (ret : Bool → State → State) :
    erasePageStep d sp p standalone lbl ret .e5Rb2 s =
      if allZero xs then ret true ((t.setBuf xs).setPState .erased)
      else raise (.eraseVerification p) (t.setBuf xs) :=
  readData_of_bytes hread hlen _

theorem programPageStep_p1Rb2 (d : DeviceDescriptor) (p : Page) (target : List Byte) (lbl : PageLabel → Label)
    (ret : Bool → Bool → State → State) :
    programPageStep d sp p target lbl ret .p1Rb2 s =
      if xs = target then ret false false ((t.setBuf xs).setPState .clean)
      else enterErasePage d sp p (fun e => lbl (.p2 e)) (t.setBuf xs) :=
  readData_of_bytes hread hlen _

theorem programPageStep_p5Rb2 (d : DeviceDescriptor) (p : Page) (target : List Byte) (lbl : PageLabel → Label)
    (ret : Bool → Bool → State → State) :
    programPageStep d sp p target lbl ret .p5Rb2 s =
      if xs = target then ret true t.locals.erasedNow ((t.setBuf xs).setPState .verified)
      else raise (.programVerification p) (t.setBuf xs) :=
  readData_of_bytes hread hlen _

end ReadBacks

end Sys2Proof.Machine

namespace Sys2Proof.Proofs

open Sys2Proof.Machine Sys2Proof.Safety

/-- Settles O28: mask, EEPROM select and page meet in no bit, so their union is their sum. -/
theorem triggerByteFields : Obligations.TriggerByteFields := by
  rintro d sp p ⟨-, -, hmask, -⟩
  obtain ⟨hnat, hlow⟩ := selectAndPage sp p
  have hmod := mask_mod hmask
  have hlt := d.eraseTriggerMask.isLt
  have hp := p.isLt
  rw [triggerByte, BitVec.or_assoc, ← BitVec.add_eq_or_of_and_eq_zero _ _ (mask_and_low hmask hlow), BitVec.toNat_add,
    hnat]
  split <;> omega

/-- Settles O29: the page is checked first, and then the descriptor is asked. -/
theorem isPageWritableCompletes : Obligations.IsPageWritableCompletes := by
  intro sp p s d hpc hd
  rw [exec_isPageWritable_start hpc hd]
  refine ⟨fun hp hsp hro => ?_, fun hp hw => ?_, fun hp => ?_⟩
  · rw [if_neg (by rw [above15_iff]; omega), nibble, pageWritable_eq_false.2 ⟨hsp, hro⟩]
    rfl
  · rw [if_neg (by rw [above15_iff]; omega), nibble, pageWritable_iff.2 hw]
    rfl
  · rw [if_pos (above15_iff.2 hp)]

/-- Settles O30: the operands are checked first, then BeginPage, then the page's writability. -/
theorem pageCommandsBegin : Obligations.PageCommandsBegin := by
  intro sp p s d hpc hd
  rw [exec_erasePage_start hpc hd, exec_programPage_start hpc hd]
  refine ⟨fun hbad => ?_, fun hsp hp => ?_⟩
  · rw [badPage_iff.2 hbad]
    exact ⟨rfl, rfl⟩
  · rw [badPage_eq_false hsp hp, enterErasePage, enterProgramPage, nibble]
    refine ⟨fun hro => ?_, fun hw => ?_⟩
    · rw [pageWritable_eq_false.2 hro]
      exact ⟨rfl, rfl⟩
    · rw [pageWritable_iff.2 hw]
      exact ⟨rfl, rfl⟩

/-- Settles O32: the two read-backs of ERASE_PAGE, each with a page that is all zero and one that is not. -/
theorem erasePageEnds : Obligations.ErasePageEnds := by
  intro sp p s t d xs hd hread hlen b
  obtain ⟨_, _, _, rfl⟩ := (busRead_spec hread).1
  refine ⟨fun hl hz => ?_, fun hl hnz => ?_, fun hl hz => ?_, fun hl hnz => ?_⟩ <;>
    rw [exec_erasePage_atLabel hd hl]
  · rw [erasePageStep_e1Rb2 hread hlen, if_pos (allZero_iff.2 hz)]
    rfl
  · rw [erasePageStep_e1Rb2 hread hlen, allZero_eq_false.2 hnz]
    rfl
  · rw [erasePageStep_e5Rb2 hread hlen, if_pos (allZero_iff.2 hz)]
    rfl
  · rw [erasePageStep_e5Rb2 hread hlen, allZero_eq_false.2 hnz]
    rfl

/-- Settles O34: the read-backs of ProgramPage one by one, first where they end PROGRAM_PAGE and then where they go on
inside any of its callers. -/
theorem programPageEnds : Obligations.ProgramPageEnds := by
  constructor
  · intro sp p s t d xs hd hread hlen b
    obtain ⟨_, _, _, rfl⟩ := (busRead_spec hread).1
    rw [← State.dataSlice_zero]
    refine ⟨fun hl heq => ?_, fun hl heq => ?_, fun hl hne => ?_⟩ <;> rw [exec_programPage_atLabel hd hl]
    · rw [programPageStep_p1Rb2 hread hlen, if_pos heq]
      rfl
    · rw [programPageStep_p5Rb2 hread hlen, if_pos heq]
      cases he : s.locals.erasedNow <;> rfl
    · rw [programPageStep_p5Rb2 hread hlen, if_neg hne]
      rfl
  · intro s t lbl d j xs hi hn hd hj hread hlen b write
    have hstep {l : PageLabel} (hl : s.pc = .resume (lbl l)) := exec_programPage hi hn hl hd hj
    obtain ⟨_, _, _, rfl⟩ := (busRead_spec hread).1
    refine ⟨fun hl hne hw => ?_, fun hl hne hw => ?_, fun hl hz => ?_, fun hl hnz => ?_, fun hl hz => ?_,
      fun hl hnz => ?_, fun hl hne => ?_⟩ <;> obtain ⟨ret, hexec⟩ := hstep hl <;> rw [hexec]
    · rw [programPageStep_p1Rb2 hread hlen, if_neg hne, enterErasePage, hw]
      rfl
    · rw [programPageStep_p1Rb2 hread hlen, if_neg hne, enterErasePage, hw]
      rfl
    · rw [programPageStep, erasePageStep_e1Rb2 hread hlen, if_pos (allZero_iff.2 hz)]
      rfl
    · rw [programPageStep, erasePageStep_e1Rb2 hread hlen, allZero_eq_false.2 hnz]
      rfl
    · rw [programPageStep, erasePageStep_e5Rb2 hread hlen, if_pos (allZero_iff.2 hz)]
      rfl
    · rw [programPageStep, erasePageStep_e5Rb2 hread hlen, allZero_eq_false.2 hnz]
      rfl
    · rw [programPageStep_p5Rb2 hread hlen, if_neg hne]
      rfl

/-- Settles O41: the page write is the one primitive of its label, and the history of that label is a read of the page
that returned sixteen zero bytes. -/
theorem onlyErasedPagesAreProgrammed : Obligations.OnlyErasedPagesAreProgrammed := by
  intro s t d j hi hh hd hj hpc h hne
  obtain ⟨lbl, hn, hl⟩ : ∃ lbl, PageNaming lbl ∧ s.pc = .resume (lbl .p3Wb1) :=
    hpc.elim (⟨_, .inl rfl, ·⟩) (⟨_, .inr rfl, ·⟩)
  obtain ⟨hw, xs, hlen, hz, pre, hpre⟩ := hh.at_page hn hd hj hl
  obtain rfl : xs = List.replicate 16 0 := List.eq_replicate_iff.2 ⟨hlen, allZero_iff.1 hz⟩
  have htrace (e : Event) : s.trace ++ [e] = pre ++ (pageReadEvents s j (List.replicate 16 0) ++ [e]) := by
    rw [← hpre, List.append_assoc]
  rw [exec_pageWrite hi hn hl hj] at h
  cases h
  obtain ⟨-, he⟩ | ⟨u, hm, he⟩ | ⟨u, hm, he⟩ := memWrite_cases j.space (pageAddress j.page) j.target
    (fun u => u.setLabel (lbl .p4)) s
  · exact absurd he hne
  · exact ⟨hw, pre, true, by rw [he, State.setLabel_trace, hm.trace, htrace]; rfl⟩
  · exact ⟨hw, pre, false, by rw [he, raise_trace, hm.trace, htrace]; rfl⟩

end Sys2Proof.Proofs

/-! PROOFS. PROGRAM_PAGES after a page of its range (R81, R82, R89): it ends past the last writable page, or goes on
to the next one. -/

namespace Sys2Proof.Machine

open Sys2Proof.Safety

section AfterPage

variable {s t : State} {d : DeviceDescriptor} {sp : Space} {a : Byte} {n : BitVec 9} {xs : List Byte}

theorem programmedAfter_getLsbD (prog : Bool) (v : State) (k : Nat) :
    (programmedAfter prog v).getLsbD k =
      (v.locals.programmed.getLsbD k || (prog && decide (k = v.locals.p.toNat))) := by
  cases prog
  · simp [programmedAfter]
  · simp [programmedAfter, addBit_getLsbD]

/-- Where RESULT holds the bitmaps, skipping moves the skipped bitmap, RESULT with it, and the locals `i` and `p`
alone. -/
theorem skipPages_of_noted {v : State} (h : v.result = resultBitmaps v.locals.programmed v.locals.skipped) (q : Page)
    (k i : Nat) :
    ∃ i' p', skipPages q k i v =
      { v with
        result := resultBitmaps v.locals.programmed (skipPages q k i v).locals.skipped
        locals := { v.locals with i := i', p := p', skipped := (skipPages q k i v).locals.skipped } } := by
  induction k generalizing i v with
  | zero =>
    refine ⟨v.locals.i, v.locals.p, ?_⟩
    simp only [skipPages, ← h]
  | succ k ih => exact ih (v := writeBitmaps (v.setLocals _)) rfl (i + 1)

/-- The programmed bitmap where PROGRAM_PAGES ends a page, verified at P5 or found equal to its target at P1 (R81). -/
def programmedAtEnd (s : State) : BitVec 16 := programmedAfter (decide (s.pc = .resume (.pages .p5Rb2))) s

/-- The state `t` after the last read of a page that equals its target, with the page noted (R80, R81). -/
def endPage (s t : State) (xs : List Byte) : State :=
  { t with
    result := resultBitmaps (programmedAtEnd s) s.locals.skipped
    status := { s.status with pstate := if s.pc = .resume (.pages .p5Rb2) then .verified else .clean }
    locals := { s.locals with buf := xs, programmed := programmedAtEnd s } }

/-- At the end of a page PROGRAM_PAGES notes it and enters its loop at the next page (R81). -/
theorem exec_programPages_endPage (hd : s.desc? = some d)
    (hpc : s.pc = .resume (.pages .p5Rb2) ∨ s.pc = .resume (.pages .p1Rb2))
    (hread : busRead (translate sp s.cc) 16 s = some (.bytes xs, t)) (hlen : xs.length = 16)
    (heq : xs = s.dataSlice (16 * s.locals.i.toNat) 16) :
    exec (.programPages sp a n) s = .next
      (pagesLoop d sp (nibble a) (n.toNat / 16 - (s.locals.i.toNat + 1)) (s.locals.i.toNat + 1) (endPage s t xs)) := by
  rw [endPage, programmedAtEnd]
  obtain ⟨_, _, _, rfl⟩ := (busRead_spec hread).1
  obtain hl | hl := hpc <;> rw [exec_programPages_atLabel hd hl, programPagesStep]
  · rw [programPageStep_p5Rb2 hread hlen, if_pos heq, afterPage_eq_pagesLoop, if_pos hl, decide_eq_true hl]
    rfl
  · have hne : s.pc ≠ .resume (.pages .p5Rb2) := fun h => nomatch hl.symm.trans h
    rw [programPageStep_p1Rb2 hread hlen, if_pos heq, afterPage_eq_pagesLoop, if_neg hne, decide_eq_false hne]
    rfl

/-- Skipping `m` pages after the end of page `p`: they join the skipped bitmap, and RESULT follows it (R81, R82). -/
theorem skipPages_endPage {m : Nat} (hp : s.locals.p.toNat = a.toNat + s.locals.i.toNat)
    (hm : s.locals.p.toNat + 1 + m ≤ 16) (t : State) (xs : List Byte) :
    ∃ sk i' p', skipPages (nibble a) m (s.locals.i.toNat + 1) (endPage s t xs) =
        { endPage s t xs with
          result := resultBitmaps (programmedAtEnd s) sk
          locals := { (endPage s t xs).locals with i := i', p := p', skipped := sk } } ∧
      ∀ b, sk.getLsbD b = (s.locals.skipped.getLsbD b ||
        (decide (s.locals.p.toNat < b) && decide (b < s.locals.p.toNat + 1 + m))) := by
  obtain ⟨i', p', hskip⟩ := skipPages_of_noted (v := endPage s t xs) rfl (nibble a) m (s.locals.i.toNat + 1)
  have hpage := s.locals.p.isLt
  have hna : (nibble a).toNat = a.toNat := nibble_toNat (by omega)
  have hstart : (nibble a).toNat + (s.locals.i.toNat + 1) = s.locals.p.toNat + 1 := by omega
  refine ⟨_, i', p', hskip, fun b => ?_⟩
  rw [skipPages_skipped_range (by omega), hstart]
  rfl

end AfterPage

end Sys2Proof.Machine

namespace Sys2Proof.Proofs

open Sys2Proof.Machine Sys2Proof.Safety

/-- Settles O37: no later page is writable, so the loop skips them all and ends. -/
theorem programPagesCompletes : Obligations.ProgramPagesCompletes := by
  intro sp a n s t d xs hd hpc hr hi hp hro hread hlen heq
  have hrest : ∀ j < n.toNat / 16 - (s.locals.i.toNat + 1),
      pageWritable d sp (nibble a + BitVec.ofNat 4 (s.locals.i.toNat + 1 + j)) = false := by
    intro j hj
    have hpage := rangePage_toNat (a := a) (i := s.locals.i.toNat + 1 + j) (by omega)
    exact hro _ (by omega) (by omega)
  obtain ⟨sk, i', p', hskip, hbits⟩ :=
    skipPages_endPage (m := n.toNat / 16 - (s.locals.i.toNat + 1)) hp (by omega) t xs
  rw [exec_programPages_endPage hd hpc hread hlen heq, pagesLoop_of_noneWritable hrest, hskip]
  refine ⟨_, _, rfl, rfl, rfl, rfl, fun k hk => ?_, fun k hk => ?_, fun hlast hl => ?_⟩
  · rw [resultBitmaps_low _ _ hk, hbits k,
      show s.locals.p.toNat + 1 + (n.toNat / 16 - (s.locals.i.toNat + 1)) = a.toNat + n.toNat / 16 by omega]
  · rw [resultBitmaps_high _ _ hk]
    exact programmedAfter_getLsbD _ s k
  · rw [hlast, Nat.sub_self] at hskip
    rw [(busRead_spec hread).1.locals]
    refine (congrArg State.locals hskip).symm.trans ?_
    rw [skipPages, endPage, programmedAtEnd, decide_eq_true hl]
    rfl

/-- Settles O38: the loop skips the pages before `k`, which is the first writable one, and begins it. -/
theorem programPagesGoesOn : Obligations.ProgramPagesGoesOn := by
  intro sp a n s t d xs k hd hpc hr hp hpk hk hw hro hread hlen heq
  obtain ⟨m, hm⟩ : ∃ m, k.toNat = s.locals.p.toNat + 1 + m := ⟨k.toNat - (s.locals.p.toNat + 1), by omega⟩
  have hnumber : s.locals.i.toNat + 1 + m = k.toNat - a.toNat := by omega
  have hpage : nibble a + BitVec.ofNat 4 (s.locals.i.toNat + 1 + m) = k := by rw [hnumber, rangePage_sub (by omega)]
  have hbefore : ∀ j < m, pageWritable d sp (nibble a + BitVec.ofNat 4 (s.locals.i.toNat + 1 + j)) = false := by
    intro j hj
    have hpage := rangePage_toNat (a := a) (i := s.locals.i.toNat + 1 + j) (by omega)
    exact hro _ (by omega) (by omega)
  obtain ⟨sk, i', p', hskip, hbits⟩ := skipPages_endPage (m := m) hp (by omega) t xs
  rw [exec_programPages_endPage hd hpc hread hlen heq,
    pagesLoop_of_firstWritable (n := m) (by omega) (hpage ▸ hw) hbefore, hpage, hnumber, hskip,
    (busRead_spec hread).1.locals]
  refine ⟨programmedAtEnd s, sk, ?_, fun b => hm ▸ hbits b, rfl⟩
  rw [programmedAtEnd, programmedAfter]
  simp only [decide_eq_true_eq, addBit]

end Sys2Proof.Proofs

/-! PROOFS. The whole runs of ERASE_PAGE and PROGRAM_PAGE (R79, R80, R87, R88), with the transport's answers in the
script: each step takes its answers off the script and adds its event to the trace. -/

namespace Sys2Proof.Machine

open Sys2Proof.Safety

/-! ### A run along a script of answers -/

/-- A run from `s` has come to label `l`: it has added the events `es`, and the answers `ws` and `rs` are to come; `k`
and `ps` are its locals and its PSTATE. -/
def State.running (s : State) (l : Label) (es : List Event) (ws : List (Option Bool)) (rs : List (Option ReadReply))
    (k : Locals) (ps : PState) : State :=
  { s with
    pc := .resume l, trace := s.trace ++ es, writeAnswers := ws, readAnswers := rs, locals := k,
    status := { s.status with pstate := ps } }

section Running

variable {s : State} {l l' : Label} {es : List Event} {ws : List (Option Bool)} {rs : List (Option ReadReply)}
  {k : Locals} {ps : PState}

theorem running_params : (s.running l es ws rs k ps).params = s.params := rfl

theorem running_setLabel : (s.running l es ws rs k ps).setLabel l' = s.running l' es ws rs k ps := rfl

theorem busWait_running (w : WaitKind) :
    busWait w (s.running l es ws rs k ps) = s.running l (es ++ [.wait w]) ws rs k ps := by
  simp only [State.running, busWait, State.record, List.append_assoc]

theorem busWrite_running {a7 : Addr7} {bytes : List Byte} {ok : Bool} (hlen : bytes.length ≤ s.params.maxWrite) :
    busWrite a7 bytes (s.running l es (some ok :: ws) rs k ps) =
      some (ok, s.running l (es ++ [.write a7 bytes ok]) ws rs k ps) := by
  rw [busWrite_script (s := s.running l es (some ok :: ws) rs k ps) rfl,
    running_params, decide_eq_true hlen, Bool.and_true]
  simp only [State.running, List.append_assoc]

theorem memWrite_running {sp : Space} {a : Byte} {v : List Byte} {f : State → State}
    (hlen : v.length + 1 ≤ s.params.maxWrite) :
    memWrite sp a v f (s.running l es (some true :: ws) rs k ps) =
      f (s.running l (es ++ [.write (translate sp s.cc) (a :: v) true]) ws rs k ps) :=
  memWrite_of_answer (busWrite_running hlen) f

theorem readAddress_running {sp : Space} {a : Byte} (hlen : 1 ≤ s.params.maxWrite) :
    readAddress sp a l' (s.running l es (some true :: ws) rs k ps) =
      s.running l' (es ++ [.write (translate sp s.cc) [a] true]) ws rs k ps :=
  readAddress_of_answer (busWrite_running hlen) l'

theorem readData_running {sp : Space} {xs : List Byte} (hlen : xs.length = 16) (f : List Byte → State → State) :
    readData sp 16 f (s.running l es ws (some (.bytes xs) :: rs) k ps) =
      f xs (s.running l (es ++ [.read (translate sp s.cc) 16 (.bytes xs)]) ws rs k ps) := by
  have h := busRead_script (s := s.running l es ws (some (.bytes xs) :: rs) k ps)
    (a7 := translate sp s.cc) (n := 16) rfl
  rw [boundReply_of_le (by omega)] at h
  refine (readData_of_bytes h hlen f).trans (congrArg (f xs) ?_)
  simp only [State.running, List.append_assoc]

theorem errata_running {ok : Bool} (hdummy : s.params.errataDummyPayload = .zeroLength) :
    errata l' (s.running l es (some ok :: ws) rs k ps) =
      s.running l' (es ++ [.write (translate .register s.cc) [] ok]) ws rs k ps := by
  have hw : busWrite (translate .register s.cc) (dummyBytes s.params.errataDummyPayload)
      (s.running l es (some ok :: ws) rs k ps) =
        some (ok, s.running l (es ++ [.write (translate .register s.cc) [] ok]) ws rs k ps) := by
    rw [hdummy]
    exact busWrite_running (Nat.zero_le _)
  exact errata_of_answer (s := s.running l es (some ok :: ws) rs k ps) hw l'

end Running

theorem execSteps_succ {i : Instr} {s t : State} (h : exec i s = .next t) (n : Nat) :
    execSteps i (n + 1) s = execSteps i n t := by
  rw [execSteps, h]

/-! ### The run of ErasePage -/

/-- The events of a read of a page that returned `xs` (R70). -/
def readEvents (cc : ControlCode) (sp : Space) (p : Page) (xs : List Byte) : List Event :=
  [.write (translate sp cc) [pageAddress p] true, .read (translate sp cc) 16 (.bytes xs)]

/-- The events of a verified erase of a page that held `xs`, with the dummy write answered `ok` (R77 to R79). -/
def eraseEvents (cc : ControlCode) (d : DeviceDescriptor) (sp : Space) (p : Page) (xs : List Byte) (ok : Bool) :
    List Event :=
  readEvents cc sp p xs ++
    [.write (translate .register cc) [d.eraseTriggerAddress, triggerByte d sp p] true, .wait .erase,
     .write (translate .register cc) [] ok] ++
    readEvents cc sp p (List.replicate 16 0)

section Erase

variable {i : Instr} {d : DeviceDescriptor} {sp : Space} {p : Page} {standalone : Bool} {lbl : EraseLabel → Label}
  {ret : Bool → State → State} {s : State}

/-- Seven steps of ErasePage, of a page that is not all zero: read-back, trigger, wait, dummy write, verify (R79). -/
theorem execSteps_erase
    (hstep : ∀ {l u}, u.pc = .resume (lbl l) → u.desc? = some d →
      exec i u = .next (erasePageStep d sp p standalone lbl ret l u))
    (hd : s.desc? = some d) (hwork : s.params.errataWorkaround = true)
    (hdummy : s.params.errataDummyPayload = .zeroLength) (hmax : 2 ≤ s.params.maxWrite) {xs : List Byte}
    (hlen : xs.length = 16) (hnz : ∃ x ∈ xs, x ≠ 0) {es : List Event} {ok : Bool} {ws : List (Option Bool)}
    {rs : List (Option ReadReply)} {k : Locals} {ps : PState} (n : Nat) :
    execSteps i (n + 7)
        (s.running (lbl .e1Rb1) es (some true :: some true :: some ok :: some true :: ws)
          (some (.bytes xs) :: some (.bytes (List.replicate 16 0)) :: rs) k ps) =
      execSteps i n (ret true
        (s.running (lbl .e5Rb2) (es ++ eraseEvents s.cc d sp p xs ok) ws rs { k with buf := List.replicate 16 0 }
          .erased)) := by
  have hxs : ¬ allZero xs = true := by rw [allZero_eq_false.2 hnz]; nofun
  have hgo {l : EraseLabel} {es ws rs k ps t} (n : Nat)
      (h : erasePageStep d sp p standalone lbl ret l (s.running (lbl l) es ws rs k ps) = t) :
      execSteps i (n + 1) (s.running (lbl l) es ws rs k ps) = execSteps i n t :=
    execSteps_succ ((hstep (u := s.running (lbl l) es ws rs k ps) rfl hd).trans (congrArg _ h)) n
  have hread {es ws rs k ps} :
      erasePageStep d sp p standalone lbl ret .e1Rb2 (s.running (lbl .e1Rb2) es ws (some (.bytes xs) :: rs) k ps) =
        s.running (lbl .e2Wb1) (es ++ [.read (translate sp s.cc) 16 (.bytes xs)]) ws rs { k with buf := xs }
          .erasing := by
    rw [erasePageStep, readData_running hlen, if_neg hxs]
    rfl
  have hwait {es ws rs k ps} :
      erasePageStep d sp p standalone lbl ret .e3 (s.running (lbl .e3) es ws rs k ps) =
        s.running (lbl .e4D1) (es ++ [.wait .erase]) ws rs k ps := by
    rw [erasePageStep, running_params, if_pos hwork,
      busWait_running]
    rfl
  have hdummyWrite {es ws rs k ps} :
      erasePageStep d sp p standalone lbl ret .e4D1 (s.running (lbl .e4D1) es (some ok :: ws) rs k ps) =
        s.running (lbl .e5Rb1) (es ++ [.write (translate .register s.cc) [] ok]) ws rs k ps :=
    errata_running hdummy
  have hverify {es ws rs k ps} :
      erasePageStep d sp p standalone lbl ret .e5Rb2
          (s.running (lbl .e5Rb2) es ws (some (.bytes (List.replicate 16 0)) :: rs) k ps) =
        ret true (s.running (lbl .e5Rb2) (es ++ [.read (translate sp s.cc) 16 (.bytes (List.replicate 16 0))]) ws rs
          { k with buf := List.replicate 16 0 } .erased) := by
    rw [erasePageStep, readData_running rfl]
    rfl
  rw [hgo (l := .e1Rb1) (n + 6) (readAddress_running (by omega)), hgo (n + 5) hread,
    hgo (l := .e2Wb1) (n + 4) (memWrite_running hmax), running_setLabel, hgo (n + 3) hwait,
    hgo (n + 2) hdummyWrite, hgo (l := .e5Rb1) (n + 1) (readAddress_running (by omega)),
    hgo n hverify]
  simp only [eraseEvents, readEvents, List.append_assoc, List.cons_append, List.nil_append]

end Erase

/-! ### The run of ProgramPage in PROGRAM_PAGE -/

/-- The events of a verified program of a page that held `xs`, erased where it held `ys` (R80). -/
def programEvents (cc : ControlCode) (d : DeviceDescriptor) (sp : Space) (p : Page) (target xs ys : List Byte)
    (ok : Bool) : List Event :=
  readEvents cc sp p xs ++ eraseEvents cc d sp p ys ok ++
    [.write (translate sp cc) (pageAddress p :: target) true, .wait .program] ++ readEvents cc sp p target

section Program

variable {d : DeviceDescriptor} {sp : Space} {p : Byte} {s : State}

/-- What PROGRAM_PAGE does with the answer of its ErasePage (R80). -/
def pageErased (erased : Bool) (u : State) : State :=
  ((u.setLocals { u.locals with erasedNow := erased }).setPState .programming).setLabel (.page .p3Wb1)

theorem pageErased_running {l : Label} {es : List Event} {ws : List (Option Bool)} {rs : List (Option ReadReply)}
    {k : Locals} {ps : PState} (erased : Bool) :
    pageErased erased (s.running l es ws rs k ps) =
      s.running (.page .p3Wb1) es ws rs { k with erasedNow := erased } .programming := rfl

theorem exec_programPage_atErase {l : EraseLabel} (hl : s.pc = .resume (.page (.p2 l))) (hd : s.desc? = some d) :
    exec (.programPage sp p) s =
      .next (erasePageStep d sp (nibble p) false (fun e => .page (.p2 e)) pageErased l s) :=
  exec_programPage_atLabel hd hl sp p

/-- Thirteen steps of PROGRAM_PAGE, of a page that differs from its target and is not all zero: read-back, erase, write,
wait, verify (R80). -/
theorem execSteps_program (hd : s.desc? = some d) (hwritable : pageWritable d sp (nibble p) = true)
    (hwork : s.params.errataWorkaround = true) (hdummy : s.params.errataDummyPayload = .zeroLength)
    (hmax : 17 ≤ s.params.maxWrite) {xs ys : List Byte} (hxs : xs.length = 16) (hys : ys.length = 16)
    (hne : xs ≠ s.dataSlice 0 16) (hnz : ∃ y ∈ ys, y ≠ 0) {es : List Event} {ok : Bool} {ws : List (Option Bool)}
    {rs : List (Option ReadReply)} {k : Locals} {ps : PState} (n : Nat) :
    execSteps (.programPage sp p) (n + 13)
        (s.running (.page .p1Rb1) es
          (some true :: some true :: some true :: some ok :: some true :: some true :: some true :: ws)
          (some (.bytes xs) :: some (.bytes ys) :: some (.bytes (List.replicate 16 0)) ::
            some (.bytes (s.dataSlice 0 16)) :: rs) k ps) =
      execSteps (.programPage sp p) n (finish 3
        (s.running (.page .p5Rb2) (es ++ programEvents s.cc d sp (nibble p) (s.dataSlice 0 16) xs ys ok) ws rs
          { k with buf := s.dataSlice 0 16, erasedNow := true } .verified)) := by
  have hgo {l : PageLabel} {es ws rs k ps t} (n : Nat)
      (h : programPageStep d sp (nibble p) (s.dataSlice 0 16) .page
        (fun prog e u => finish ((if e then 2 else 0) ||| (if prog then 1 else 0)) u) l
        (s.running (.page l) es ws rs k ps) = t) :
      execSteps (.programPage sp p) (n + 1) (s.running (.page l) es ws rs k ps) =
        execSteps (.programPage sp p) n t :=
    execSteps_succ ((exec_programPage_atLabel (s := s.running (.page l) es ws rs k ps) hd rfl sp p).trans
      (congrArg _ h)) n
  have hread {ret es ws rs k ps} :
      programPageStep d sp (nibble p) (s.dataSlice 0 16) .page ret .p1Rb2
          (s.running (.page .p1Rb2) es ws (some (.bytes xs) :: rs) k ps) =
        s.running (.page (.p2 .e1Rb1)) (es ++ [.read (translate sp s.cc) 16 (.bytes xs)]) ws rs { k with buf := xs }
          ps := by
    rw [programPageStep, readData_running hxs, if_neg hne, enterErasePage, if_pos hwritable]
    rfl
  have hwait {ret es ws rs k ps} :
      programPageStep d sp (nibble p) (s.dataSlice 0 16) .page ret .p4 (s.running (.page .p4) es ws rs k ps) =
        s.running (.page .p5Rb1) (es ++ [.wait .program]) ws rs k ps := by
    rw [programPageStep, busWait_running]
    rfl
  have hverify {ret es ws rs k ps} :
      programPageStep d sp (nibble p) (s.dataSlice 0 16) .page ret .p5Rb2
          (s.running (.page .p5Rb2) es ws (some (.bytes (s.dataSlice 0 16)) :: rs) k ps) =
        ret true k.erasedNow
          (s.running (.page .p5Rb2) (es ++ [.read (translate sp s.cc) 16 (.bytes (s.dataSlice 0 16))]) ws rs
            { k with buf := s.dataSlice 0 16 } .verified) := by
    rw [programPageStep, readData_running (State.dataSlice_length ..), if_pos rfl]
    rfl
  have hwrite : (s.dataSlice 0 16).length + 1 ≤ s.params.maxWrite := by
    rw [State.dataSlice_length]
    omega
  rw [hgo (l := .p1Rb1) (n + 12) (readAddress_running (by omega)), hgo (n + 11) hread,
    execSteps_erase (i := .programPage sp p) (lbl := fun e => .page (.p2 e)) exec_programPage_atErase hd hwork hdummy
      (by omega) hys hnz (n + 4), pageErased_running, hgo (l := .p3Wb1) (n + 3) (memWrite_running hwrite),
    running_setLabel, hgo (n + 2) hwait, hgo (l := .p5Rb1) (n + 1) (readAddress_running (by omega)), hgo n hverify]
  simp only [programEvents, readEvents, List.append_assoc, List.cons_append, List.nil_append]
  rfl

end Program

/-! ### From the first step -/

/-- A state that has moved to a label is a run with no event yet. -/
theorem setLabel_eq_running (s : State) (l : Label) :
    s.setLabel l = s.running l [] s.writeAnswers s.readAnswers s.locals s.status.pstate := by
  rw [State.running, List.append_nil]
  rfl

/-- The address of a page operand that has passed its check (R37). -/
theorem pageAddress_eq_shift {p : Byte} (hp : p.toNat ≤ 15) : pageAddress (nibble p) = p <<< 4 := by
  refine pageAddress_nibble hp ?_
  rw [BitVec.toNat_shiftLeft, Nat.shiftLeft_eq]
  omega

end Sys2Proof.Machine

namespace Sys2Proof.Proofs

open Sys2Proof.Machine Sys2Proof.Safety

/-- Settles O31: the first step, and then the run of ErasePage. -/
theorem erasePageWholeRun : Obligations.ErasePageWholeRun := by
  intro sp p s d xs ok ws rs hpc hd hsp hp hro hwork hdummy hmax hlen hnz hw hr
  have hwritable : pageWritable d sp (nibble p) = true := pageWritable_iff.2 hro
  refine ⟨List.replicate 16 0, ?_⟩
  rw [execSteps_succ (exec_erasePage_start hpc hd sp p), badPage_eq_false hsp hp, if_neg nofun, enterErasePage,
    if_pos hwritable, setLabel_eq_running, beginPage_writeAnswers, beginPage_readAnswers, hw, hr]
  refine (execSteps_erase (s := beginPage sp (nibble p) s) (lbl := .erase)
    (fun hu hdu => exec_erasePage_atLabel hdu hu sp p) hd hwork hdummy hmax hlen hnz 0).trans ?_
  simp only [execSteps, eraseEvents, readEvents, pageAddress_eq_shift hp]
  rfl

/-- Settles O35: the first step, and then the run of ProgramPage. -/
theorem programPageWholeRun : Obligations.ProgramPageWholeRun := by
  intro sp p s d xs ys ok ws rs hpc hd hsp hp hro hwork hdummy hmax hxs hys hne hnz hw hr
  have hwritable : pageWritable d sp (nibble p) = true := pageWritable_iff.2 hro
  rw [← State.dataSlice_zero] at hne hr ⊢
  refine ⟨{ s.locals with buf := s.dataSlice 0 16, erasedNow := true }, ?_⟩
  rw [execSteps_succ (exec_programPage_start hpc hd sp p), badPage_eq_false hsp hp, if_neg nofun, enterProgramPage,
    if_pos hwritable, setLabel_eq_running, beginPage_writeAnswers, beginPage_readAnswers, hw, hr]
  refine (execSteps_program (s := beginPage sp (nibble p) s) hd hwritable hwork hdummy hmax hxs hys hne hnz 0).trans ?_
  simp only [execSteps, programEvents, eraseEvents, readEvents, pageAddress_eq_shift hp]
  rfl

end Sys2Proof.Proofs

/-! PROOFS. The device controller (43_device_controller.md): RESET_DEVICE (R90), the probes of SCAN_DEVICE and
SCAN_DEVICES (R91, R92), and the session registers CC and DEVSEL (R95, R96). -/

namespace Sys2Proof.Machine

open Sys2Proof.Safety

/-! ### Addresses and codes -/

/-- The Register space has sub-address 0, so its bus address is the code times 8 (R67). -/
theorem translate_register (cc : ControlCode) : translate .register cc = BitVec.ofNat 7 (8 * cc.toNat) := by
  rw [← BitVec.setWidth_eq (translate .register cc), ← BitVec.ofNat_toNat, translate_toNat]
  rfl

/-- A code operand that has passed its check is the code of its number. -/
theorem nibble_eq_ofNat (c : Byte) : nibble c = BitVec.ofNat 4 c.toNat := (BitVec.ofNat_toNat ..).symm

/-! ### The steps of the device controller's commands -/

section Steps

variable {s t : State} {ok : Bool}

theorem exec_resetDevice_start (hpc : s.pc = .resume .start) :
    exec .resetDevice s = .next (s.setLabel .x1Wb1) := by
  simp only [exec, execResetDevice, hpc]

theorem exec_resetDevice_x1Wb1 (hpc : s.pc = .resume .x1Wb1) :
    exec .resetDevice s = .next (memWrite .register 0xC8 [0x02] (fun u => u.setLabel .x2) s) := by
  simp only [exec, execResetDevice, hpc]

theorem exec_resetDevice_x2 (hpc : s.pc = .resume .x2) :
    exec .resetDevice s = .next (finish 0 (busWait .reset s)) := by
  simp only [exec, execResetDevice, hpc]

theorem exec_scanDevice_start (hpc : s.pc = .resume .start) (c : Byte) :
    exec (.scanDevice c) s = .next (if above15 c then raise .precondition s else s.setLabel .s1) := by
  simp only [exec, execScanDevice, hpc]

/-- The probe of SCAN_DEVICE, once it is answered, ends the command (R91). -/
theorem exec_scanDevice_s1 (hpc : s.pc = .resume .s1) {c : Byte}
    (hw : busWrite (translate .register (nibble c)) [] s = some (ok, t)) :
    exec (.scanDevice c) s = .next (finish (if ok then 1 else 0) t) := by
  simp only [exec, execScanDevice, hpc, hw]

theorem exec_scanDevices_start (hpc : s.pc = .resume .start) :
    exec .scanDevices s = .next ((s.setLocals { s.locals with found := 0, c := 0 }).setLabel .scan) := by
  simp only [exec, execScanDevices, hpc]

/-- A probe of SCAN_DEVICES, once it is answered, is noted (R92). -/
theorem exec_scanDevices_scan (hpc : s.pc = .resume .scan)
    (hw : busWrite (translate .register s.locals.c) [] s = some (ok, t)) :
    exec .scanDevices s = .next (afterProbe (markFound ok t)) := by
  simp only [exec, execScanDevices, hpc, hw]

theorem exec_setControlCode_start (hpc : s.pc = .resume .start) (c : Byte) :
    exec (.setControlCode c) s =
      .next (if above15 c then raise .precondition s else finish 0 (s.setCc (nibble c))) := by
  simp only [exec, execSetControlCode, hpc]

/-- SET_DEVICE with a count above 256 is refused before any name is compared (R96). -/
theorem exec_setDevice_precondition (hpc : s.pc = .resume .start) {n : BitVec 9} (hn : 256 < n.toNat) :
    exec (.setDevice n) s = .next (raise .precondition s) := by
  simp only [exec, execSetDevice, hpc, if_pos hn]

/-- SET_DEVICE selects the first entry with the name, if there is one (R96). -/
theorem exec_setDevice_start (hpc : s.pc = .resume .start) {n : BitVec 9} (hn : n.toNat ≤ 256) {found : Option Nat}
    (hfind : s.params.descriptors.findIdx? (fun d => d.name == s.dataSlice 0 n.toNat) = found) :
    exec (.setDevice n) s = .next
      (found.elim (raise .unknownDevice s) fun k => finish 0 (s.setDevsel (BitVec.ofNat 8 k))) := by
  simp only [exec, execSetDevice, hpc, if_neg (Nat.not_lt.2 hn), hfind]
  cases found <;> rfl

end Steps

/-! ### The table of descriptors -/

/-- In a table without a name twice, the first entry with a name is the one entry with it (R30, R96). -/
theorem findIdx?_name {ds : List DeviceDescriptor} (hnodup : (ds.map DeviceDescriptor.name).Nodup) {k : Nat}
    {d : DeviceDescriptor} (hk : ds[k]? = some d) : ds.findIdx? (fun e => e.name == d.name) = some k := by
  obtain ⟨hlt, rfl⟩ := List.getElem?_eq_some_iff.1 hk
  refine List.findIdx?_eq_some_iff_getElem.2 ⟨hlt, beq_self_eq_true _, fun j hj => ?_⟩
  have hne : (ds.map DeviceDescriptor.name)[j]'(by simp; omega) ≠ (ds.map DeviceDescriptor.name)[k]'(by simpa) :=
    fun h => Nat.ne_of_lt hj ((hnodup.getElem_inj_iff).1 h)
  simpa using hne

/-! ### SCAN_DEVICES -/

/-- Below code 15 SCAN_DEVICES goes on to the probe of the next code (R92). -/
theorem afterProbe_of_ne {u : State} (h : u.locals.c ≠ 15) :
    afterProbe u = (u.setLocals { u.locals with c := u.locals.c + 1 }).setLabel .scan := if_neg h

/-- After code 15 SCAN_DEVICES ends (R92). -/
theorem afterProbe_of_eq {u : State} (h : u.locals.c = 15) : afterProbe u = finishScan u := if_pos h

/-- How SCAN_DEVICES ends: the bitmap and the count in RESULT, and the responding codes at the head of DATA (R92). -/
theorem finishScan_spec (u : State) :
    ∃ (m : Memory) (r : Word), finishScan u = finish r { u with data := m } ∧
      (∀ c < 16, r.getLsbD c = u.locals.found.getLsbD c) ∧
      r.toNat / 65536 = ((List.range 16).filter u.locals.found.getLsbD).length ∧
      (u.data.wf → m.wf ∧ ∀ k, m.read k =
        if k < ((List.range 16).filter u.locals.found.getLsbD).length
        then BitVec.ofNat 8 (((List.range 16).filter u.locals.found.getLsbD).getD k 0) else u.data.read k) := by
  refine ⟨_, _, rfl, fun c hc => scanResult_low _ hc, ?_, fun hwf => ?_⟩
  · have hfound := u.locals.found.isLt
    rw [scanResult_toNat, Nat.mul_comm, Nat.mul_add_div (by decide), Nat.div_eq_of_lt hfound]
    rfl
  · have hlen : 0 + ((setBits u.locals.found).map (BitVec.ofNat 8)).length ≤ 256 := by
      have hcount := setBits_length_le u.locals.found
      rw [List.length_map]
      omega
    refine ⟨Memory.wf_writeList hwf hlen, fun k => ?_⟩
    have hcode : ((setBits u.locals.found).map (BitVec.ofNat 8)).getD k 0 =
        BitVec.ofNat 8 ((setBits u.locals.found).getD k 0) := List.getD_map _ 0 _
    rw [Memory.read_writeList hwf hlen, Nat.zero_add, List.length_map, Nat.sub_zero]
    simp only [Nat.zero_le, true_and]
    rw [hcode]
    rfl

end Sys2Proof.Machine

namespace Sys2Proof.Proofs

open Sys2Proof.Machine Sys2Proof.Safety

/-- Settles O43: one transfer and one wait, and the run of the three steps. -/
theorem resetDeviceCompletes : Obligations.ResetDeviceCompletes := by
  intro s
  refine ⟨exec_resetDevice_start, fun t ok hpc hw => ?_, exec_resetDevice_x2, fun t hpc hw => ?_⟩
  · rw [exec_resetDevice_x1Wb1 hpc, memWrite_of_answer hw]
    rfl
  · have hmoved := (busWrite_spec hw).1
    have hx1 : exec .resetDevice (s.setLabel .x1Wb1) = .next (t.setLabel .x2) := by
      rw [exec_resetDevice_x1Wb1 rfl]
      exact congrArg _ (memWrite_of_answer (s := s.setLabel .x1Wb1) hw _)
    refine ⟨finish 0 (busWait .reset (t.setLabel .x2)), ?_, rfl, rfl, hmoved.cc, hmoved.devsel, ?_⟩
    · rw [execSteps_succ (exec_resetDevice_start hpc), execSteps_succ hx1, execSteps_succ (exec_resetDevice_x2 rfl)]
      rfl
    · rw [finish_trace, (busWait_moved _ _).trace, State.setLabel_trace, hmoved.trace, List.append_assoc]
      rfl

/-- Settles O44: the operand check, in numbers, and then one probe whose answer is the result. -/
theorem scanDeviceCompletes : Obligations.ScanDeviceCompletes := by
  refine fun c s => ⟨fun hpc hlt => ?_, fun hpc hle => ?_, fun t ok hpc hle hw => ?_⟩
  · rw [exec_scanDevice_start hpc, if_pos (above15_iff.2 hlt)]
  · rw [exec_scanDevice_start hpc, if_neg (above15_iff.not.2 hle.not_gt)]
    rfl
  · rw [← nibble_toNat hle, ← translate_register] at hw
    exact exec_scanDevice_s1 hpc hw

/-- Settles O46: the answer is noted in the bitmap, and the code decides whether the scan goes on or ends. -/
theorem scanDevicesCompletes : Obligations.ScanDevicesCompletes := by
  refine ⟨fun s hpc => exec_scanDevices_start hpc, fun s t ok hpc hw => ?_⟩
  rw [← translate_register] at hw
  have hmoved := (busWrite_spec hw).1
  obtain ⟨found, hmark, hbits⟩ := markFound_spec ok t
  rw [hmoved.locals] at hmark hbits
  refine ⟨found, hbits, fun hlt => ?_, fun hlast => ?_, hmoved.status, hmoved.result, hmoved.errinfo, hmoved.cc,
    hmoved.devsel, hmoved.data⟩
  · have hne : s.locals.c ≠ 15 := fun h => by rw [h] at hlt; contradiction
    rw [exec_scanDevices_scan hpc hw, hmark]
    exact congrArg _ (afterProbe_of_ne hne)
  · obtain ⟨m, r, hfinish, hspec⟩ := finishScan_spec (t.setLocals { s.locals with found := found })
    refine ⟨m, r, ?_, hmoved.data ▸ hspec⟩
    rw [exec_scanDevices_scan hpc hw, hmark, afterProbe_of_eq (by exact hlast), hfinish]
    rfl

/-- Settles O50: the operand check of SET_CONTROL_CODE, in numbers, picks how its one step ends. -/
theorem setControlCodeCompletes : Obligations.SetControlCodeCompletes := by
  intro c s hpc
  rw [exec_setControlCode_start hpc]
  refine ⟨fun hle => ?_, fun hlt => ?_⟩
  · rw [if_neg (above15_iff.not.2 hle.not_gt), nibble_eq_ofNat]
    rfl
  · rw [if_pos (above15_iff.2 hlt)]

/-- Settles O51: names are unique in the table, so the first match is the match. -/
theorem setDeviceCompletes : Obligations.SetDeviceCompletes := by
  rintro n s hpc ⟨-, -, hnodup, -⟩
  rw [← State.dataSlice_zero]
  refine ⟨exec_setDevice_precondition hpc, fun hn => ⟨fun k d hk hname => ?_, fun hnone => ?_⟩⟩
  · exact exec_setDevice_start hpc hn (hname ▸ findIdx?_name hnodup hk)
  · exact exec_setDevice_start hpc hn (List.findIdx?_eq_none_iff.2 fun d hd => beq_eq_false_iff_ne.2 (hnone d hd))

end Sys2Proof.Proofs

/-! PROOFS. The whole run of SCAN_DEVICES (R92), with the transport's answers in the script. -/

namespace Sys2Proof.Machine

open Sys2Proof.Safety

section Scan

variable {answers : List Bool}

/-- The event of the probe of code `c` (R45, R92). -/
def probeEvent (answers : List Bool) (c : Nat) : Event :=
  .write (BitVec.ofNat 7 (8 * c)) [] (answers.getD c false)

/-- A scan from `s` that comes to the probe of code `c`: the codes below `c` have been probed, and their bitmap is
`found`. -/
def scanAt (s : State) (answers : List Bool) (rest : List (Option Bool)) (c : Nat) (found : BitVec 16) : State :=
  s.running .scan ((List.range c).map (probeEvent answers)) ((answers.drop c).map some ++ rest) s.readAnswers
    { s.locals with c := BitVec.ofNat 4 c, found := found } s.status.pstate

/-- The bitmap of the codes below `c` that respond (R92). -/
def FoundBelow (answers : List Bool) (c : Nat) (found : BitVec 16) : Prop :=
  ∀ k, found.getLsbD k = (decide (k < c) && answers.getD k false)

/-- The probe of code `c` takes that code's answer off the script and records its event. -/
theorem busWrite_scanAt (s : State) (rest : List (Option Bool)) {c : Nat} (hc : c < 16) (hlen : answers.length = 16)
    (found : BitVec 16) :
    busWrite (BitVec.ofNat 7 (8 * (scanAt s answers rest c found).locals.c.toNat)) [] (scanAt s answers rest c found) =
      some (answers.getD c false,
        s.running .scan ((List.range (c + 1)).map (probeEvent answers)) ((answers.drop (c + 1)).map some ++ rest)
          s.readAnswers { s.locals with c := BitVec.ofNat 4 c, found := found } s.status.pstate) := by
  have hcode : (scanAt s answers rest c found).locals.c.toNat = c := Nat.mod_eq_of_lt hc
  have hhead : answers[c]'(hlen ▸ hc) = answers.getD c false := (List.getD_eq_getElem ..).symm
  rw [hcode, scanAt, List.drop_eq_getElem_cons (hlen ▸ hc), hhead, List.map_cons, List.cons_append,
    busWrite_running (Nat.zero_le _), List.range_succ, List.map_append]
  rfl

/-- Noting the answer of code `c` extends the bitmap to the codes below `c + 1`. -/
theorem FoundBelow.succ {c : Nat} {found found' : BitVec 16} (h : FoundBelow answers c found)
    (h' : ∀ k, found'.getLsbD k = (found.getLsbD k || (answers.getD c false && decide (k = c)))) :
    FoundBelow answers (c + 1) found' := by
  intro k
  rw [h' k, h k]
  obtain hk | rfl | hk := Nat.lt_trichotomy k c
  · simp [hk, Nat.lt_succ_of_lt hk, Nat.ne_of_lt hk]
  · simp
  · simp [hk.not_gt, Nat.ne_of_gt hk, Nat.not_lt.2 (Nat.succ_le_of_lt hk)]

end Scan

end Sys2Proof.Machine

namespace Sys2Proof.Proofs

open Sys2Proof.Machine Sys2Proof.Safety

/-- The scan comes to the probe of every code, with the answers of the codes below in its bitmap (R92). -/
theorem scan_reaches {s : State} {answers : List Bool} {rest : List (Option Bool)} (hpc : s.pc = .resume .start)
    (hlen : answers.length = 16) (hw : s.writeAnswers = answers.map some ++ rest) {c : Nat} (hc : c < 16) :
    ∃ found, FoundBelow answers c found ∧
      execSteps .scanDevices 17 s = execSteps .scanDevices (16 - c) (scanAt s answers rest c found) := by
  obtain ⟨hstart, hprobe⟩ := scanDevicesCompletes
  induction c with
  | zero =>
    refine ⟨0, fun k => by simp, ?_⟩
    rw [execSteps_succ (hstart s hpc)]
    simp only [scanAt, State.running, List.drop_zero, ← hw, List.range_zero, List.map_nil, List.append_nil]
    rfl
  | succ c ih =>
    obtain ⟨found, hfound, hrun⟩ := ih (by omega)
    obtain ⟨found', hnoted, hgoes, -⟩ := hprobe _ _ _ rfl (busWrite_scanAt s rest (Nat.lt_of_succ_lt hc) hlen found)
    have hcode : (scanAt s answers rest c found).locals.c.toNat = c := Nat.mod_eq_of_lt (by omega)
    rw [hcode] at hnoted hgoes
    refine ⟨found', hfound.succ hnoted, ?_⟩
    rw [hrun, show 16 - c = 16 - (c + 1) + 1 by omega, execSteps_succ (hgoes (by omega))]
    have hnext : BitVec.ofNat 4 (c + 1) = BitVec.ofNat 4 c + 1 := BitVec.ofNat_add ..
    simp only [scanAt, State.running, hnext]

/-- Settles O45: the scan comes to the probe of code 15, which notes the last answer and ends the command. -/
theorem scanDevicesWholeRun : Obligations.ScanDevicesWholeRun := by
  intro s answers rest hpc hwf hlen hw
  obtain ⟨below, hbelow, hrun⟩ := scan_reaches hpc hlen hw (c := 15) (by decide)
  obtain ⟨found, hnoted, -, hends, -⟩ := scanDevicesCompletes.2 _ _ _ rfl 
    (busWrite_scanAt s rest (by decide : 15 < 16) hlen below)
  have hfound : FoundBelow answers 16 found := hbelow.succ hnoted
  obtain ⟨m, r, hfinish, hlow, hcount, hdata⟩ := hends rfl
  have hcodes : (List.range 16).filter found.getLsbD = (List.range 16).filter (fun c => answers.getD c false) :=
    List.filter_congr fun c hc => by rw [hfound c, decide_eq_true (List.mem_range.1 hc), Bool.true_and]
  rw [hcodes] at hcount hdata
  obtain ⟨-, hread⟩ := hdata hwf
  refine ⟨{ s.locals with c := 15, found := found }, m, r, ?_, ?_, fun c hc => ?_, hread⟩
  · rw [hrun, execSteps_succ hfinish, List.drop_of_length_le (by omega)]
    rfl
  · rw [← hcount]
    omega
  · rw [hlow c hc, hfound c, decide_eq_true hc, Bool.true_and]

end Sys2Proof.Proofs

/-! PROOFS. PROGRAM_CONTROL_CODE: how a specification is packed (R93), the page that holds the control-code byte, and
how the command begins and ends (R94, R80 to R82). -/

namespace Sys2Proof.Machine

open Sys2Proof.Safety

/-! ### ParseSpec -/

/-- The characters of a specification are 0, 1 and X (R93). -/
abbrev SpecChar (ch : Byte) : Prop := ch = 0x30 ∨ ch = 0x31 ∨ ch = 0x58

/-- The bit of a character that `rest` follows, in a map where it counts (R93). -/
def specBit (counts : Bool) (rest : List Byte) : BitVec 4 := if counts then BitVec.ofNat 4 (1 <<< rest.length) else 0

theorem specBit_getLsbD {rest : List Byte} (h : rest.length < 4) (counts : Bool) (k : Nat) :
    (specBit counts rest).getLsbD k = (counts && decide (k = rest.length)) := by
  cases counts
  · simp [specBit]
  · rw [specBit, if_pos rfl, BitVec.getLsbD_ofNat, Nat.one_shiftLeft, Nat.testBit_two_pow, ← Bool.decide_and,
      Bool.true_and, decide_eq_decide]
    omega

/-- A character of a specification sets its bit of the fixed bits when it is 1, and of the selection mask when it is X
(R93). -/
theorem parseSpecChars_cons {ch : Byte} (h : SpecChar ch) (rest : List Byte)
    (fixed sel : BitVec 4) :
    parseSpecChars (ch :: rest) fixed sel =
      parseSpecChars rest (fixed ||| specBit (ch == 0x31) rest) (sel ||| specBit (ch == 0x58) rest) := by
  obtain rfl | rfl | rfl := h <;> simp [parseSpecChars, specBit]

/-- Another character ends the parse (R93). -/
theorem parseSpecChars_cons_eq_none {ch : Byte} (h : ¬SpecChar ch) (rest : List Byte)
    (fixed sel : BitVec 4) : parseSpecChars (ch :: rest) fixed sel = none := by
  obtain ⟨h0, h1, hX⟩ : ch ≠ 0x30 ∧ ch ≠ 0x31 ∧ ch ≠ 0x58 := by simpa only [not_or] using h
  rw [parseSpecChars, if_neg h0, if_neg h1, if_neg hX]

theorem parseSpecChars_eq_none {xs : List Byte} {fixed sel : BitVec 4} :
    parseSpecChars xs fixed sel = none ↔ ∃ x ∈ xs, ¬SpecChar x := by
  induction xs generalizing fixed sel with
  | nil => simp [parseSpecChars]
  | cons ch rest ih =>
    by_cases h : SpecChar ch
    · rw [parseSpecChars_cons h, ih, List.exists_mem_cons_iff, or_iff_right (not_not.2 h)]
    · rw [parseSpecChars_cons_eq_none h, List.exists_mem_cons_iff]
      exact iff_of_true rfl (.inl h)

/-- Bit `k` belongs to the character with `k` characters after it (R93). -/
theorem getElem?_reverse_cons {ch : Byte} {rest : List Byte} {k : Nat} (c : Byte) :
    decide ((ch :: rest).reverse[k]? = some c) =
      ((ch == c && decide (k = rest.length)) || decide (rest.reverse[k]? = some c)) := by
  rw [List.reverse_cons]
  obtain hk | rfl | hk := Nat.lt_trichotomy k rest.length
  · simp [List.getElem?_append_left, hk, hk.ne]
  · simp [beq_eq_decide]
  · simp [List.getElem?_append_right, hk.le, hk.ne', Nat.sub_ne_zero_of_lt hk, hk.not_gt]

/-- What the characters leave in the two maps (R93). -/
theorem parseSpecChars_getLsbD {xs : List Byte} (hlen : xs.length ≤ 4) {fixed sel fixed' sel' : BitVec 4}
    (h : parseSpecChars xs fixed sel = some (fixed', sel')) (k : Nat) :
    fixed'.getLsbD k = (fixed.getLsbD k || decide (xs.reverse[k]? = some 0x31)) ∧
    sel'.getLsbD k = (sel.getLsbD k || decide (xs.reverse[k]? = some 0x58)) := by
  induction xs generalizing fixed sel with
  | nil =>
    cases h
    simp
  | cons ch rest ih =>
    rw [List.length_cons] at hlen
    by_cases hch : SpecChar ch
    · rw [parseSpecChars_cons hch] at h
      obtain ⟨hfixed, hsel⟩ := ih (by omega) h
      rw [hfixed, hsel]
      simp only [BitVec.getLsbD_or, specBit_getLsbD hlen, getElem?_reverse_cons, Bool.or_assoc, and_self]
    · rw [parseSpecChars_cons_eq_none hch] at h
      contradiction

/-- The packed byte `(sel << 4) | fixed` (R93). -/
def packSpec (m : BitVec 4 × BitVec 4) : Byte := (m.2.setWidth 8 <<< 4) ||| m.1.setWidth 8

theorem parseSpec_of_length {xs : List Byte} (h : xs.length = 4) :
    parseSpec xs = (parseSpecChars xs 0 0).map packSpec := by
  rw [parseSpec, if_neg (not_not.2 h)]
  cases parseSpecChars xs 0 0 <;> rfl

/-- The low half of the packed byte is the fixed bits, and the high half the selection mask. -/
theorem packSpec_getLsbD (fixed sel : BitVec 4) {k : Nat} (hk : k < 4) :
    (packSpec (fixed, sel)).getLsbD k = fixed.getLsbD k ∧ (packSpec (fixed, sel)).getLsbD (4 + k) = sel.getLsbD k := by
  simp [packSpec, hk, show k < 8 by omega, show 4 + k < 8 by omega]

/-! ### The page of the control code -/

/-- The page that holds the control-code byte is the high half of its address (R94). -/
theorem controlCodePageIndex_eq (d : DeviceDescriptor) :
    controlCodePageIndex d = nibble (d.controlCodeAddress >>> 4) := rfl

theorem controlCode_page_toNat (d : DeviceDescriptor) :
    (d.controlCodeAddress >>> 4).toNat = d.controlCodeAddress.toNat / 16 := by
  rw [BitVec.toNat_ushiftRight, Nat.shiftRight_eq_div_pow]

theorem controlCodePage_length {d : DeviceDescriptor} (h : d.defaultImage.length = 256) (b : Byte) :
    (controlCodePage d b).length = 16 := by
  have hlt := d.controlCodeAddress.isLt
  simp only [controlCodePage, List.length_set, List.length_take, List.length_drop, h]
  omega

/-- The image of the control-code page is the default page with the one byte replaced (R94). -/
theorem controlCodePage_getD {d : DeviceDescriptor} (h : d.defaultImage.length = 256) (b : Byte) {k : Nat}
    (hk : k < 16) :
    (controlCodePage d b).getD k 0 = if k = d.controlCodeAddress.toNat % 16 then b
      else d.defaultImage.getD (16 * (d.controlCodeAddress.toNat / 16) + k) 0 := by
  have hlt := d.controlCodeAddress.isLt
  have hpage : d.controlCodeAddress.toNat % 16 <
      ((d.defaultImage.drop (d.controlCodeAddress.toNat / 16 * 16)).take 16).length := by
    simp only [List.length_take, List.length_drop, h]
    omega
  simp only [controlCodePage, List.getD_eq_getElem?_getD, List.getElem?_set, List.getElem?_take, List.getElem?_drop,
    hpage, hk, if_true, eq_comm (a := d.controlCodeAddress.toNat % 16), Nat.mul_comm 16]
  split <;> rfl

/-! ### The command at its first step and at its last read -/

section ControlCode

variable {s : State}

/-- A bad specification raises InvalidSpecError (R94). -/
theorem exec_programControlCode_invalid (hpc : s.pc = .resume .start) {n : BitVec 9}
    (h : parseSpec (s.dataSlice 0 n.toNat) = none) :
    exec (.programControlCode n) s = .next (raise .invalidSpec s) := by
  simp only [exec, execProgramControlCode, hpc, h]

/-- A good specification enters ProgramPages for the one page of the control code (R94). -/
theorem exec_programControlCode_enters {d : DeviceDescriptor} (hpc : s.pc = .resume .start) (hd : s.desc? = some d)
    {n : BitVec 9} {b : Byte} (h : parseSpec (s.dataSlice 0 n.toNat) = some b) :
    exec (.programControlCode n) s = .next
      (enterProgramPages d .nvm (controlCodePageIndex d) 1
        (s.setLocals { s.locals with img := controlCodePage d b })) := by
  simp only [exec, execProgramControlCode, hpc, h, withDesc_of_some hd]

/-- What holds of a page holds of each page number of the range of that one page (R81). -/
theorem forall_onePage {P : Page → Prop} {p : Page} (h : P p) : ∀ j < 1, P (p + BitVec.ofNat 4 j) := by
  intro j hj
  obtain rfl := Nat.lt_one_iff.1 hj
  rwa [BitVec.add_zero]

/-- ProgramPages of one writable page begins that page, with both bitmaps empty (R81). -/
theorem enterProgramPages_onePage {d : DeviceDescriptor} {sp : Space} {a : Byte}
    (hw : pageWritable d sp (nibble a) = true) :
    enterProgramPages d sp (nibble a) 1 s =
      (beginPage sp (nibble a)
        (s.setLocals { s.locals with i := 0, p := nibble a, skipped := 0, programmed := 0 })).setLabel
          (.pages .p1Rb1) := by
  have hfirst : nibble a + BitVec.ofNat 4 0 = nibble a := BitVec.add_zero _
  rw [enterProgramPages_loops (.inr (forall_onePage (P := (pageWritable d sp · = true)) hw)),
    pagesLoop_of_firstWritable (n := 0) Nat.one_pos (hfirst.symm ▸ hw) nofun, Nat.add_zero, hfirst]
  rfl

/-- ProgramPages of one page ends with that page (R81). -/
theorem afterPage_onePage {d : DeviceDescriptor} {sp : Space} {a : Page} (hi : s.locals.i = 0) (prog : Bool) :
    afterPage d sp a 1 prog s = finish (resultBitmaps (programmedAfter prog s) s.locals.skipped) (notePage prog s) := by
  rw [afterPage_eq_pagesLoop, hi]
  rfl

end ControlCode

end Sys2Proof.Machine

namespace Sys2Proof.Proofs

open Sys2Proof.Machine Sys2Proof.Safety

/-- Settles O47: every character has a bit of its own in each map, and the packed byte is the two maps side by side. -/
theorem specificationPacking : Obligations.SpecificationPacking := by
  intro xs
  by_cases hlen : xs.length = 4
  · rw [parseSpec_of_length hlen]
    refine ⟨?_, fun b hb j hj => ?_⟩
    · rw [Option.map_eq_none_iff, parseSpecChars_eq_none]
      simp [hlen, not_or]
    · obtain ⟨⟨fixed, sel⟩, hchars, rfl⟩ := Option.map_eq_some_iff.1 hb
      obtain ⟨hfixed, hsel⟩ := parseSpecChars_getLsbD hlen.le hchars (3 - j)
      have hchar : xs.reverse[3 - j]? = some (xs.getD j 0) := by
        rw [List.getElem?_reverse (by omega), List.getD_eq_getElem _ _ (by omega), List.getElem?_eq_getElem (by omega)]
        congr 2
        omega
      obtain ⟨hlow, hhigh⟩ := packSpec_getLsbD fixed sel (k := 3 - j) (by omega)
      rw [show 7 - j = 4 + (3 - j) by omega, hlow, hhigh, hfixed, hsel, hchar]
      simp
  · rw [parseSpec, if_pos hlen]
    exact ⟨iff_of_true rfl (.inl hlen), nofun⟩

/-- Settles O48: the specification is parsed first, and then the range of ProgramPages is the one page of the control
code. -/
theorem programControlCodeBegins : Obligations.ProgramControlCodeBegins := by
  rintro n s d hpc hd ⟨-, -, -, himage⟩
  rw [← State.dataSlice_zero]
  refine ⟨exec_programControlCode_invalid hpc, fun b p hspec hp => ?_⟩
  have hlt := d.controlCodeAddress.isLt
  have hpage := controlCode_page_toNat d
  obtain rfl : nibble (d.controlCodeAddress >>> 4) = p :=
    BitVec.eq_of_toNat_eq (by rw [nibble_toNat (by omega), hpage, hp])
  rw [exec_programControlCode_enters hpc hd hspec, controlCodePageIndex_eq]
  refine ⟨fun hw => ?_, fun hro hskip => ?_, fun hro hfail => ?_⟩
  · rw [enterProgramPages_onePage hw]
    refine ⟨_, rfl, rfl, rfl, rfl, rfl, controlCodePage_length himage b, fun k hk => ?_⟩
    rw [hp]
    exact controlCodePage_getD himage b hk
  · obtain ⟨l, r, hends, hbits⟩ := enterProgramPages_ends
      (s := s.setLocals { s.locals with img := controlCodePage d b }) hskip
      (by omega : (d.controlCodeAddress >>> 4).toNat + 1 ≤ 16)
      (forall_onePage (P := (pageWritable d .nvm · = false)) hro)
    refine ⟨l, r, congrArg _ hends, fun k => ?_⟩
    rw [hbits k, hp, hpage, ← Bool.decide_and, decide_eq_decide]
    omega
  · have hfirst : nibble (d.controlCodeAddress >>> 4) + BitVec.ofNat 4 0 = nibble (d.controlCodeAddress >>> 4) :=
      BitVec.add_zero _
    rw [enterProgramPages_raises (by exact hfail) Nat.one_pos (hfirst.symm ▸ hro) nofun, hfirst]
    rfl

/-- Settles O49: the range has one page, so the end of its page procedure is the end of the command. -/
theorem programControlCodeCompletes : Obligations.ProgramControlCodeCompletes := by
  intro n s t d hd hi himg hread
  have htarget : (s.locals.img.drop (16 * s.locals.i.toNat)).take 16 = s.locals.img := by
    rw [hi]
    exact List.take_of_length_le himg.le
  obtain ⟨_, _, _, rfl⟩ := (busRead_spec hread).1
  refine ⟨fun hl => ⟨resultBitmaps (addBit s.locals.programmed s.locals.p) s.locals.skipped, ?_,
    fun k hk => resultBitmaps_low _ _ hk, fun k hk => ?_⟩, fun hl => ?_, rfl⟩
  · rw [exec_programControlCode_atLabel hd hl, htarget, programPagesStep, programPageStep_p5Rb2 hread himg, if_pos rfl,
      afterPage_onePage (by exact hi)]
    rfl
  · rw [resultBitmaps_high _ _ hk, addBit_getLsbD]
  · rw [exec_programControlCode_atLabel hd hl, htarget, programPagesStep, programPageStep_p1Rb2 hread himg, if_pos rfl,
      afterPage_onePage (by exact hi)]
    rfl

end Sys2Proof.Proofs

/-! PROOFS. The exceptions (60_exceptions.md): what `finish` and `raise` write (R98, R99), the error codes, and which
errors each command reports (R100). -/

namespace Sys2Proof.Machine

open Sys2Proof.Safety

/-! ### The page an error names -/

theorem Error.page?_eq_some {e : Error} {p : Page} :
    e.page? = some p ↔ e = .readOnlyPage p ∨ e = .eraseVerification p ∨ e = .programVerification p := by
  cases e <;> simp [Error.page?]

theorem Error.page?_eq_none {e : Error} :
    e.page? = none ↔ ∀ p, e ≠ .readOnlyPage p ∧ e ≠ .eraseVerification p ∧ e ≠ .programVerification p := by
  simp only [Option.eq_none_iff_forall_ne_some, ne_eq, Error.page?_eq_some, not_or]

/-- An error that names no page leaves ERRINFO the page of the page procedure that has run, and else the old one
(R99). -/
theorem raisedErrInfo_unnamed {e : Error} (h : e.page? = none) (st : Status) (old : ErrInfo) :
    (st.pstate ≠ .none →
      (raisedErrInfo e st old).page = st.ppage ∧ (raisedErrInfo e st old).pageValid = true) ∧
    (st.pstate = .none →
      (raisedErrInfo e st old).page = old.page ∧ (raisedErrInfo e st old).pageValid = old.pageValid) := by
  simp only [raisedErrInfo, h]
  exact ⟨fun hrun => ⟨if_neg hrun, if_neg hrun⟩, fun hnone => ⟨if_pos hnone, if_pos hnone⟩⟩

/-! ### Which errors the operations report -/

/-- From `s` to `t` STATUS.ERR is kept, or becomes one of the errors in `P`. -/
def Reports (P : ErrCode → Prop) (s t : State) : Prop := t.status.err = s.status.err ∨ P t.status.err

theorem Moved.err {e : Event} {s t : State} (h : Moved e s t) : t.status.err = s.status.err :=
  congrArg Status.err h.status

section Operations

variable {P : ErrCode → Prop} {s : State}

/-- A first step that checks its operands reports PreconditionError at most (R101). -/
theorem reports_check (hpre : P .preconditionError) {bad : Bool} {v : State} (hv : v.status.err = s.status.err) :
    Reports P s (if bad then raise .precondition s else v) := by
  cases bad
  · exact .inl hv
  · exact .inr hpre

section Transport

variable (htransport : P .transportError)
include htransport

theorem reports_readAddress (sp : Space) (a : Byte) (next : Label) : Reports P s (readAddress sp a next s) := by
  obtain ⟨-, h⟩ | ⟨u, hm, h⟩ | ⟨u, -, h⟩ := readAddress_cases sp a next s <;> rw [h]
  · exact .inl rfl
  · exact .inl hm.err
  · exact .inr htransport

theorem reports_readData {sp : Space} {n : Nat} {k : List Byte → State → State}
    (hk : ∀ xs u, u.status.err = s.status.err → Reports P s (k xs u)) : Reports P s (readData sp n k s) := by
  obtain ⟨-, h⟩ | ⟨u, xs, hm, -, -, h⟩ | ⟨u, xs, -, -, h⟩ | ⟨u, -, h⟩ := readData_cases sp n k s <;> rw [h]
  · exact .inl rfl
  · exact hk xs u hm.err
  · exact .inr htransport
  · exact .inr htransport

theorem reports_memWrite {sp : Space} {a : Byte} {xs : List Byte} {k : State → State}
    (hk : ∀ u, u.status.err = s.status.err → Reports P s (k u)) : Reports P s (memWrite sp a xs k s) := by
  obtain ⟨-, h⟩ | ⟨u, hm, h⟩ | ⟨u, -, h⟩ := memWrite_cases sp a xs k s <;> rw [h]
  · exact .inl rfl
  · exact hk u hm.err
  · exact .inr htransport

end Transport

theorem errata_err (next : Label) (s : State) : (errata next s).status.err = s.status.err := by
  obtain ⟨-, h⟩ | ⟨u, ok, hm, h⟩ := errata_cases next s <;> rw [h]
  exact hm.err

/-- The loop of ProgramPages raises no error: the pages it begins are writable (R81). -/
theorem pagesLoop_err (d : DeviceDescriptor) (sp : Space) (a : Page) (k i : Nat) (s : State) :
    (pagesLoop d sp a k i s).status.err = s.status.err := by
  have hskip (n : Nat) : (skipPages a n i s).status.err = s.status.err := by
    obtain ⟨hstatus, -⟩ := skipPages_spec a n i s
    rw [hstatus]
  obtain ⟨n, -, -, ⟨-, h⟩ | ⟨-, -, h⟩⟩ := pagesLoop_cases d sp a k i s <;> rw [h] <;> exact hskip n

theorem afterPage_err (d : DeviceDescriptor) (sp : Space) (a : Page) (np : Nat) (prog : Bool) (s : State) :
    (afterPage d sp a np prog s).status.err = s.status.err := by
  rw [afterPage_eq_pagesLoop]
  exact pagesLoop_err ..

/-- ProgramPages from its beginning reports ReadOnlyPageError at most, and only under RO_POLICY = Fail (R81). -/
theorem reports_enterProgramPages {v : State} (hpolicy : v.params.roPolicy = .fail → P .readOnlyPageError)
    (hv : v.status.err = s.status.err) (d : DeviceDescriptor) (sp : Space) (a : Page) (np : Nat) :
    Reports P s (enterProgramPages d sp a np v) := by
  obtain ⟨p, hfail, -, h⟩ | ⟨-, h⟩ := enterProgramPages_cases d sp a np v <;> rw [h]
  · exact .inr (hpolicy hfail)
  · exact .inl ((pagesLoop_err ..).trans hv)

section PageProcedures

variable {d : DeviceDescriptor} {sp : Space} {p : Page} (htransport : P .transportError)
  (herase : P .eraseVerificationError)
include htransport herase

/-- ErasePage at a label reports TransportError or EraseVerificationError, beside what its caller reports (R79). -/
theorem reports_erasePageStep {standalone : Bool} {lbl : EraseLabel → Label} {ret : Bool → State → State}
    (hret : ∀ erased u, u.status.err = s.status.err → Reports P s (ret erased u)) (l : EraseLabel) :
    Reports P s (erasePageStep d sp p standalone lbl ret l s) := by
  cases l with
  | e1Rb1 | e5Rb1 => exact reports_readAddress htransport ..
  | e1Rb2 =>
    refine reports_readData htransport fun xs u hu => ?_
    split
    · exact hret _ _ hu
    · exact .inl hu
  | e2Wb1 => exact reports_memWrite htransport fun u hu => .inl hu
  | e3 => exact .inl rfl
  | e4D1 => exact .inl (errata_err ..)
  | e5Rb2 =>
    refine reports_readData htransport fun xs u hu => ?_
    split
    · exact hret _ _ hu
    · exact .inr herase

/-- ProgramPage at a label reports besides ProgramVerificationError, and ReadOnlyPageError only for a page that is not
writable (R80). -/
theorem reports_programPageStep (hprogram : P .programVerificationError)
    (hreadOnly : pageWritable d sp p = false → P .readOnlyPageError) {target : List Byte} {lbl : PageLabel → Label}
    {ret : Bool → Bool → State → State}
    (hret : ∀ prog erased u, u.status.err = s.status.err → Reports P s (ret prog erased u)) (l : PageLabel) :
    Reports P s (programPageStep d sp p target lbl ret l s) := by
  cases l with
  | p1Rb1 | p5Rb1 => exact reports_readAddress htransport ..
  | p1Rb2 =>
    refine reports_readData htransport fun xs u hu => ?_
    split
    · exact hret _ _ _ hu
    · obtain ⟨-, h⟩ | ⟨hw, h⟩ := enterErasePage_cases d sp p (fun e => lbl (.p2 e)) (u.setBuf xs) <;> rw [h]
      · exact .inl hu
      · exact .inr (hreadOnly hw)
  | p2 l =>
    rw [programPageStep]
    refine reports_erasePageStep htransport herase (fun _ _ hu => ?_) l
    exact .inl hu
  | p3Wb1 => exact reports_memWrite htransport fun u hu => .inl hu
  | p4 => exact .inl rfl
  | p5Rb2 =>
    refine reports_readData htransport fun xs u hu => ?_
    split
    · exact hret _ _ _ hu
    · exact .inr hprogram

/-- ProgramPages at a label reports what ProgramPage does: its loop raises no error (R81). -/
theorem reports_programPagesStep (hprogram : P .programVerificationError)
    (hreadOnly : pageWritable d sp s.locals.p = false → P .readOnlyPageError) {a : Page} {np : Nat}
    {target : List Byte} (l : PageLabel) : Reports P s (programPagesStep d sp a np target l s) :=
  reports_programPageStep htransport herase hprogram hreadOnly
    (fun _ _ _ hu => .inl ((afterPage_err ..).trans hu)) l

end PageProcedures

end Operations

/-! ### Which errors each command reports -/

/-- What R100 lets a command report: an error of the column "raised by", and ReadOnlyPageError, but in ERASE_PAGE and
PROGRAM_PAGE, only under RO_POLICY = Fail. -/
structure MayReport (s : State) (i : Instr) (c : ErrCode) : Prop where
  listed : mayRaise i c = true
  policy : c = .readOnlyPageError → (∀ sp p, i ≠ .erasePage sp p ∧ i ≠ .programPage sp p) → s.params.roPolicy = .fail

section Commands

variable {s t : State}

theorem execReadBytes_reports {sp : Space} {a : Byte} {n : BitVec 9} (h : execReadBytes sp a n s = .next t) :
    Reports (MayReport s (.readBytes sp a n)) s t := by
  unfold execReadBytes at h
  split at h <;> cases h
  · exact reports_check ⟨rfl, nofun⟩ rfl
  · exact reports_readAddress ⟨rfl, nofun⟩ ..
  · exact reports_readData ⟨rfl, nofun⟩ fun _ _ hu => .inl hu

theorem execWriteBytes_reports {sp : Space} {a : Byte} {n : BitVec 9} (h : execWriteBytes sp a n s = .next t) :
    Reports (MayReport s (.writeBytes sp a n)) s t := by
  unfold execWriteBytes at h
  split at h <;> cases h
  · exact reports_check ⟨rfl, nofun⟩ rfl
  · exact reports_memWrite ⟨rfl, nofun⟩ fun _ hu => .inl hu

theorem execReadPage_reports {sp : Space} {p : Byte} (h : execReadPage sp p s = .next t) :
    Reports (MayReport s (.readPage sp p)) s t := by
  unfold execReadPage at h
  split at h <;> cases h
  · exact reports_check ⟨rfl, nofun⟩ rfl
  · exact reports_readAddress ⟨rfl, nofun⟩ ..
  · exact reports_readData ⟨rfl, nofun⟩ fun _ _ hu => .inl hu

theorem execIsPageErased_reports {sp : Space} {p : Byte} (h : execIsPageErased sp p s = .next t) :
    Reports (MayReport s (.isPageErased sp p)) s t := by
  unfold execIsPageErased at h
  split at h <;> cases h
  · exact reports_check ⟨rfl, nofun⟩ rfl
  · exact reports_readAddress ⟨rfl, nofun⟩ ..
  · exact reports_readData ⟨rfl, nofun⟩ fun _ _ hu => .inl hu

theorem execIsPageWritable_reports {sp : Space} {p : Byte} (h : execIsPageWritable sp p s = .next t) :
    Reports (MayReport s (.isPageWritable sp p)) s t := by
  unfold execIsPageWritable at h
  split at h
  · split at h
    · cases h
      exact .inr ⟨rfl, nofun⟩
    · obtain ⟨d, -, rfl⟩ := withDesc_eq_next.1 h
      exact .inl rfl
  · cases h

theorem execErasePage_reports {sp : Space} {p : Byte} (h : execErasePage sp p s = .next t) :
    Reports (MayReport s (.erasePage sp p)) s t := by
  unfold execErasePage at h
  split at h
  · split at h
    · cases h
      exact .inr ⟨rfl, nofun⟩
    · obtain ⟨d, -, rfl⟩ := withDesc_eq_next.1 h
      obtain ⟨-, he⟩ | ⟨-, he⟩ := enterErasePage_cases d sp (nibble p) .erase (beginPage sp (nibble p) s) <;> rw [he]
      · exact .inl rfl
      · exact .inr ⟨rfl, fun _ hne => absurd rfl (hne sp p).1⟩
  · rename_i l _
    obtain ⟨d, -, rfl⟩ := withDesc_eq_next.1 h
    refine reports_erasePageStep ⟨rfl, nofun⟩ ⟨rfl, nofun⟩ (fun _ _ hu => ?_) l
    exact .inl hu
  · cases h

theorem execProgramPage_reports {sp : Space} {p : Byte} (h : execProgramPage sp p s = .next t) :
    Reports (MayReport s (.programPage sp p)) s t := by
  have hreadOnly : MayReport s (.programPage sp p) .readOnlyPageError := ⟨rfl, fun _ hne => absurd rfl (hne sp p).2⟩
  unfold execProgramPage at h
  split at h
  · split at h
    · cases h
      exact .inr ⟨rfl, nofun⟩
    · obtain ⟨d, -, rfl⟩ := withDesc_eq_next.1 h
      obtain ⟨-, he⟩ | ⟨-, he⟩ := enterProgramPage_cases d sp (nibble p) .page s <;> rw [he]
      · exact .inl rfl
      · exact .inr hreadOnly
  · rename_i l _
    obtain ⟨d, -, rfl⟩ := withDesc_eq_next.1 h
    refine reports_programPageStep ⟨rfl, nofun⟩ ⟨rfl, nofun⟩ ⟨rfl, nofun⟩ (fun _ => hreadOnly) (fun _ _ _ hu => ?_) l
    exact .inl hu
  · cases h

/-- Inside ProgramPages the page in progress is writable, by the history of its page procedure (R84). -/
theorem pageInProgress_writable {l : PageLabel} {d : DeviceDescriptor} {sp : Space} {target : List Byte}
    (hh : History s) (hl : s.pc = .resume (.pages l)) (hd : s.desc? = some d)
    (hj : pageJob s = some ⟨sp, s.locals.p, target⟩) : pageWritable d sp s.locals.p = true := by
  obtain ⟨hw, -⟩ := hh.at_page (lbl := .pages) (.inr rfl) hd hj hl
  exact hw

theorem execProgramPages_reports {sp : Space} {a : Byte} {n : BitVec 9} (hh : History s)
    (hc : s.command = .programPages sp a n) (h : execProgramPages sp a n s = .next t) :
    Reports (MayReport s (.programPages sp a n)) s t := by
  unfold execProgramPages at h
  split at h
  · split at h
    · cases h
      exact .inr ⟨rfl, nofun⟩
    · obtain ⟨d, -, rfl⟩ := withDesc_eq_next.1 h
      exact reports_enterProgramPages (fun hfail => ⟨rfl, fun _ _ => hfail⟩) rfl ..
  · rename_i l hl
    obtain ⟨d, hd, rfl⟩ := withDesc_eq_next.1 h
    have hw := pageInProgress_writable (sp := sp) hh hl hd (by rw [pageJob, hc])
    exact reports_programPagesStep ⟨rfl, nofun⟩ ⟨rfl, nofun⟩ ⟨rfl, nofun⟩ (fun hro => nomatch hw.symm.trans hro) l
  · cases h

theorem execProgramControlCode_reports {n : BitVec 9} (hh : History s) (hc : s.command = .programControlCode n)
    (h : execProgramControlCode n s = .next t) : Reports (MayReport s (.programControlCode n)) s t := by
  unfold execProgramControlCode at h
  split at h
  · split at h
    · cases h
      exact .inr ⟨rfl, nofun⟩
    · obtain ⟨d, -, rfl⟩ := withDesc_eq_next.1 h
      exact reports_enterProgramPages (fun hfail => ⟨rfl, fun _ _ => hfail⟩) rfl ..
  · rename_i l hl
    obtain ⟨d, hd, rfl⟩ := withDesc_eq_next.1 h
    have hw := pageInProgress_writable (sp := .nvm) hh hl hd (by rw [pageJob, hc])
    exact reports_programPagesStep ⟨rfl, nofun⟩ ⟨rfl, nofun⟩ ⟨rfl, nofun⟩ (fun hro => nomatch hw.symm.trans hro) l
  · cases h

theorem execResetDevice_reports (h : execResetDevice s = .next t) : Reports (MayReport s .resetDevice) s t := by
  unfold execResetDevice at h
  split at h <;> cases h
  · exact .inl rfl
  · exact reports_memWrite ⟨rfl, nofun⟩ fun _ hu => .inl hu
  · exact .inl rfl

/-- A false answer to a probe is a result, not an error (R91). -/
theorem execScanDevice_reports {c : Byte} (h : execScanDevice c s = .next t) :
    Reports (MayReport s (.scanDevice c)) s t := by
  unfold execScanDevice at h
  split at h
  · cases h
    exact reports_check ⟨rfl, nofun⟩ rfl
  · split at h <;> cases h
    · rename_i hw
      exact .inl (busWrite_spec hw).1.err
    · exact .inl rfl
  · cases h

/-- SCAN_DEVICES reports no error at all (R92). -/
theorem execScanDevices_err (h : execScanDevices s = .next t) : t.status.err = s.status.err := by
  unfold execScanDevices at h
  split at h
  · cases h
    rfl
  · split at h <;> cases h
    · rename_i ok u hw
      have hmark : (markFound ok u).status = u.status := by cases ok <;> rfl
      have hu : (markFound ok u).status.err = s.status.err :=
        (congrArg Status.err hmark).trans (busWrite_spec hw).1.err
      obtain ⟨-, he⟩ | ⟨-, he⟩ := afterProbe_cases (markFound ok u) <;> rw [he] <;> exact hu
    · rfl
  · cases h

theorem execSetControlCode_reports {c : Byte} (h : execSetControlCode c s = .next t) :
    Reports (MayReport s (.setControlCode c)) s t := by
  unfold execSetControlCode at h
  split at h <;> cases h
  exact reports_check ⟨rfl, nofun⟩ rfl

theorem execSetDevice_reports {n : BitVec 9} (h : execSetDevice n s = .next t) :
    Reports (MayReport s (.setDevice n)) s t := by
  unfold execSetDevice at h
  split at h <;> cases h
  split
  · exact .inr ⟨rfl, nofun⟩
  · split
    · exact .inl rfl
    · exact .inr ⟨rfl, nofun⟩

theorem execTranslate_reports {sp : Space} {c : Byte} (h : execTranslate sp c s = .next t) :
    Reports (MayReport s (.translate sp c)) s t := by
  unfold execTranslate at h
  split at h <;> cases h
  exact reports_check ⟨rfl, nofun⟩ rfl

theorem execIllegal_reports {w : Word} (h : execIllegal w s = .next t) : Reports (MayReport s (.illegal w)) s t := by
  unfold execIllegal at h
  split at h <;> cases h
  exact .inr ⟨rfl, nofun⟩

/-- A step of the command in CMDREG keeps STATUS.ERR or reports an error that R100 lists for it. -/
theorem exec_reports {i : Instr} (hh : History s) (hc : s.command = i) (h : exec i s = .next t) :
    Reports (MayReport s i) s t := by
  cases i with
  | readBytes sp a n => exact execReadBytes_reports h
  | writeBytes sp a n => exact execWriteBytes_reports h
  | readPage sp p => exact execReadPage_reports h
  | isPageWritable sp p => exact execIsPageWritable_reports h
  | isPageErased sp p => exact execIsPageErased_reports h
  | erasePage sp p => exact execErasePage_reports h
  | programPage sp p => exact execProgramPage_reports h
  | programPages sp a n => exact execProgramPages_reports hh hc h
  | resetDevice => exact execResetDevice_reports h
  | scanDevice c => exact execScanDevice_reports h
  | scanDevices => exact .inl (execScanDevices_err h)
  | programControlCode n => exact execProgramControlCode_reports hh hc h
  | setControlCode c => exact execSetControlCode_reports h
  | setDevice n => exact execSetDevice_reports h
  | translate sp c => exact execTranslate_reports h
  | illegal w => exact execIllegal_reports h

end Commands

end Sys2Proof.Machine

namespace Sys2Proof.Proofs

open Sys2Proof.Machine Sys2Proof.Safety

/-- Settles O8: `finish` is those four writes. -/
theorem finishEndsTheCommand : Obligations.FinishEndsTheCommand := fun _ _ => rfl

/-- Settles O9: an error names a page of its own, or the page of the page procedure stands in for it. -/
theorem raiseRecordsTheError : Obligations.RaiseRecordsTheError := by
  intro e s
  refine ⟨rfl, rfl, rfl, rfl, rfl, ?transport, ?other, ?named, ?unnamed, _, _, rfl, rfl, rfl, rfl⟩
  case transport =>
    rintro a r m rfl
    exact ⟨rfl, rfl, rfl⟩
  case other =>
    intro hne
    cases e with
    | transport a r m => exact absurd rfl (hne a r m)
    | _ => exact ⟨rfl, rfl, rfl⟩
  case named =>
    rintro p (rfl | rfl | rfl) <;> exact ⟨rfl, rfl⟩
  case unnamed => exact fun hne => raisedErrInfo_unnamed (Error.page?_eq_none.2 hne) ..

/-- Settles O10: each error has its own code, and no code lies above 8. -/
theorem errorCodesAreR100s : Obligations.ErrorCodesAreR100s := by
  refine ⟨rfl, fun _ _ _ => rfl, fun _ => rfl, fun _ => rfl, fun _ => rfl, rfl, rfl, rfl, rfl, fun c => ?_⟩
  cases c <;> decide

/-- Settles O11: a busy command has reported nothing yet (R97), so the error that stands after its step is one the step
reports. -/
theorem commandsRaiseOnlyTheirErrors : Obligations.CommandsRaiseOnlyTheirErrors := by
  intro s t hi hh _ h hne
  obtain ⟨l, hl, -⟩ := exec_cases h
  obtain ⟨-, hnone, -⟩ := hi.busy_clear (hi.busy hl)
  obtain hkept | ⟨hlisted, hpolicy⟩ := exec_reports hh rfl h
  · exact absurd (hkept.trans hnone) hne
  · exact ⟨hlisted, hpolicy⟩

end Sys2Proof.Proofs

/-! PROOFS. Controller reset (70_reset_and_hazards.md): when the block admits the session it is given (R115), the
registers it leaves (R113, R114), and the invariant in the state of the model's own start. -/

namespace Sys2Proof.Machine

section ControllerReset

variable {s : State} {d : Byte} {cc : ControlCode}

/-- A device index of the table is a launch the block admits (R113). -/
theorem controllerReset_of_lt (h : d.toNat < s.params.descriptors.length) : ∃ t, controllerReset d cc s = .next t :=
  ⟨_, if_pos h⟩

/-- A device index outside the table is refused by name (R115). -/
theorem controllerReset_of_le (h : s.params.descriptors.length ≤ d.toNat) :
    controllerReset d cc s = .refused (.noLaunch d) :=
  if_neg (Nat.not_lt.2 h)

/-- A controller reset takes its turn whether or not a command runs (R113). -/
theorem step_reset {rest : List Turn} (hs : s.schedule = .host (.reset d cc) :: rest) :
    step s = controllerReset d cc { s with schedule := rest } :=
  step_host hs rfl

end ControllerReset

end Sys2Proof.Machine

namespace Sys2Proof.Safety

open Sys2Proof.Machine

/-- Bits 4..0 of the erase trigger mask are 0 whatever its OPEN bits 7..5 are (R29, R31). -/
theorem triggerBits_append_and (b : BitVec 3) : (b ++ 0#5) &&& 0x1F#8 = 0#8 := by
  revert b
  decide

/-- The known descriptor is one the spec admits, whatever its OPEN fields are (R29, R31). -/
theorem slg46826_wf : Config.slg46826.wf :=
  have hname : Config.slg46826.name ≠ [] := List.cons_ne_nil _ _
  have hpages : Config.slg46826.readOnlyNvmPages.Nodup := List.nodup_singleton _
  have himage : Config.slg46826.defaultImage.length = 256 := List.length_map _ |>.trans List.length_range
  ⟨hname, hpages, triggerBits_append_and _, himage⟩

/-- The default table, the known descriptor alone, is one the spec admits (R8, R30). -/
theorem defaultParams_wf : Config.defaultParams.wf := by
  refine ⟨Nat.le_refl 1, by decide, List.nodup_singleton _, ?_⟩
  exact List.forall_mem_singleton.2 slg46826_wf

end Sys2Proof.Safety

namespace Sys2Proof.Proofs

open Sys2Proof.Machine Sys2Proof.Safety

/-- Settles O55: a controller reset never waits, and it is performed exactly when its device index is in the table. -/
theorem controllerResetState : Obligations.ControllerResetState := by
  intro s d cc rest hs
  rw [step_reset hs]
  refine ⟨fun hlt => ?performed, fun hle => controllerReset_of_le (by exact hle)⟩
  case performed =>
    obtain ⟨t, ht⟩ := controllerReset_of_lt (s := { s with schedule := rest }) (cc := cc) hlt
    obtain ⟨-, ws, rs, hws, hrs, rfl⟩ := controllerReset_spec ht
    exact ⟨freeData s.draws, _, _, _, ws, rs, freeData_wf s.draws, hws, hrs, ht⟩

/-- Settles O56: the two words are those of `Status.zero` and `ErrInfo.zero`. -/
theorem resetStateValues : Obligations.ResetStateValues := by
  have hstatus : Status.zero.word = 0 := by decide
  have herrinfo : ErrInfo.zero.word = 0 := by decide
  exact ⟨rfl, hstatus, rfl, herrinfo, rfl, rfl⟩

/-- Settles O58: the reset state is idle, so its table, DEVSEL and DATA are all that the invariant asks about. -/
theorem resetIsSound : Obligations.ResetIsSound :=
  sound_of_idle defaultParams_wf Nat.zero_lt_one Memory.wf_nil rfl rfl

end Sys2Proof.Proofs
